-- ==== Sys2Proof/Word.lean ====
section
/-! DEFINITION. The words of the PW2040: bytes of the control link, samples of the line, stored words with parity. -/

namespace Sys2Proof

/-- One byte of the control link or of a slot. -/
abbrev Byte := BitVec 8

/-- One sample: a signed 16-bit two's-complement integer (00_scope.md, "Units and conventions"). -/
abbrev Sample := BitVec 16

/-- A 16-bit word of a slot in bits 15..0 with its parity bit in bit 16 (R113). -/
abbrev StoredWord := BitVec 17

/-- Frame of samples; a whole frame has 160 of them (00_scope.md, "Units and conventions"). -/
abbrev Frame := List Sample

end Sys2Proof
end

