-- ==== Sys2Proof/Syntax.lean ====
section
/-! DEFINITION. The commands: one constructor for each row of spec/opcode_table.json. -/

namespace Sys2Proof

/-- Levels of the strap pins RATE1 and RATE0 (R177); true is high. -/
structure Straps where
  rate1 : Bool
  rate0 : Bool
  deriving DecidableEq, Repr

/-- Bits of one word of a slot that a read returns otherwise than they were written: the bits set in `mask`, bit 16
being the parity bit (R113, R114). The memory behind a slot fails outside the part's own rules, so these are operands
of the commands that read slots (log 9). -/
structure CellError where
  slot : Nat
  word : Nat
  mask : StoredWord
  deriving DecidableEq, Repr

/-- What CHECKING has read back: the slots below `upTo`, with these bits wrong (R126, log 31). -/
structure ReadBack where
  upTo : Nat
  errs : List CellError
  deriving DecidableEq, Repr

/-- One command: a step of spec/95_what_each_step_holds.md. Requests carry no operand here: target, tag and body stand in
the message at the front of the receive queue (R180, log 3). -/
inductive Instr where
  /-- POWER_ON (R191), with the straps sampled. -/
  | powerOn (straps : Straps)
  /-- RESET_ASSERTED (R191). -/
  | resetAsserted
  /-- RESET_LINE: the release of the reset line (R191), with the straps sampled. -/
  | resetLine (straps : Straps)
  /-- LOADING_END (R123). -/
  | loadingEnd
  /-- WRITING_END (R125). -/
  | writingEnd
  /-- CHECKING_END (R126, R127): CHECKING has come to a slot, the slots below it having been read back; it ends when no
  written slot is left (log 31). -/
  | checkingEnd (got : ReadBack)
  /-- FRAMING_ERROR (R179). -/
  | framingError
  /-- BREAK (R179). -/
  | lineBreak
  /-- MESSAGE_RECEIVED (R178): the characters that complete a message. -/
  | messageReceived (chars : List Byte)
  /-- UNKNOWN_KIND (R180, R181). -/
  | reqUnknownKind
  /-- IDENTIFY (R182). -/
  | reqIdentify
  /-- STATUS (R183). -/
  | reqStatus
  /-- CONFIGURE (R184). -/
  | reqConfigure
  /-- POLL (R187). -/
  | reqPoll
  /-- DEFECTS (R121). -/
  | reqDefects
  /-- RESTART (R192). -/
  | reqRestart
  /-- RESTART_FULL (R193): the FULL restart is made. -/
  | restartFull
  /-- RESTART_KEEP (R193): the KEEP restart is made. -/
  | restartKeep
  /-- SET (R92 to R95). -/
  | reqSet
  /-- BIND (R169). -/
  | reqBind
  /-- OPEN (R53). -/
  | reqOpen
  /-- ATTACH (R54). -/
  | reqAttach
  /-- DETACH (R55). -/
  | reqDetach
  /-- END (R56). -/
  | reqEnd
  /-- DISCARD (R57). -/
  | reqDiscard
  /-- TRUNCATE (R58). -/
  | reqTruncate
  /-- RECORD (R77 to R79). -/
  | reqRecord
  /-- STOP (R82 to R84). -/
  | reqStop
  /-- WIND (R85, R86). -/
  | reqWind
  /-- REVIEW (R87). -/
  | reqReview
  /-- MARK (R62 to R64). -/
  | reqMark
  /-- UNMARK (R70). -/
  | reqUnmark
  /-- MARKLIST (R71). -/
  | reqMarklist
  /-- TAKE (R131 to R140), with the bits that read wrong. -/
  | reqTake (errs : List CellError)
  /-- LOAD (R145). -/
  | reqLoad
  /-- UNLOAD (R146). -/
  | reqUnload
  /-- FEED (R148, R149). -/
  | reqFeed
  /-- PLAY (R157). -/
  | reqPlay
  /-- HALT (R158). -/
  | reqHalt
  /-- STEP (R159). -/
  | reqStep
  /-- SYNC (R163): one HSYNC, with what arrived in each receive timeslot of the line frame it closes; none where the
  sixteen bits had not all arrived. -/
  | sync (rx : List (Option Sample))
  /-- FRAME_BOUNDARY (R164): the HSYNC at which the frame counter wraps, with what it hands over (log 2). -/
  | frameBoundary (rx : List (Option Sample))
  /-- ENCODE_COMPLETION (R104 to R106). -/
  | encodeCompletion
  /-- DECODE_COMPLETION (R107 to R109), with the bits that read wrong. -/
  | decodeCompletion (errs : List CellError)
  /-- REFERENCE_TICK (R172, R173). -/
  | referenceTick
  /-- SYNC_ABSENCE (R172): the reference tick that is the fourth without a sync (log 2). -/
  | syncAbsence
  /-- WINDOW_END (R173): the reference tick that is the 8000th of its window (log 2). -/
  | windowEnd
  /-- LEAD_BYTE_RECEIVED (R178): a character that may be the lead byte. -/
  | leadByteReceived (char : Byte)
  /-- MESSAGE_LENGTH_RECEIVED (R178): the two length characters, the lower byte first. -/
  | messageLengthReceived (low high : Byte)
  /-- BREAK_END (R179). -/
  | lineBreakEnd
  deriving DecidableEq, Repr

end Sys2Proof
end

