-- ==== Sys2Proof/Decode.lean ====
section
/-! DEFINITION. The commands that the table spells in bits: none, since no row of spec/opcode_table.json gives bits. -/

namespace Sys2Proof

/-- The command that a word spells by the table's bits. Every row's "fields" are empty and no row is fixed to a
pattern, so no word spells a command. -/
def decodeTableWord (_nbits _w : Nat) : Option Instr := none

end Sys2Proof
end

