-- ==== Sys2Proof/Config.lean ====
section
/-! DEFINITION. What is fixed for every PW2040 (capacities, R182 and the chapters that own them) and the one free value. -/

namespace Sys2Proof.Config

/-- Channels 0 to 19 (R1). -/
def channelCount : Nat := 20
/-- Timeslots 0 to 31 in each direction (R1). -/
def timeslotCount : Nat := 32
/-- Letter records 0 to 31 (R33). -/
def letterCount : Nat := 32
/-- Slots 0 to 8191 (R113). -/
def slotCount : Nat := 8192
/-- Records of the entry pool (R35). -/
def entryCount : Nat := 12288
/-- Bits after which the scan pattern repeats (R124). -/
def patternPeriod : Nat := 32767
/-- Words of a slot (R113). -/
def slotWords : Nat := 42
/-- Largest length and position of a letter (R33). -/
def maxLength : Nat := 16777215
/-- Samples of a frame and line frames of a frame time (R164). -/
def frameSamples : Nat := 160
/-- Bytes of the receive queue (R179). -/
def rxBytes : Nat := 4096
/-- Bytes of the transmit queue (R180). -/
def txBytes : Nat := 2048
/-- The largest reply, for which the transmit queue must have room (R180). -/
def maxReply : Nat := 1030
/-- Marks of a letter's table (R60). -/
def markCount : Nat := 16
/-- Entries of the defect table (R118). -/
def defectCount : Nat := 64
/-- Retired slots a DONE scan may leave (R127). -/
def maxRetired : Nat := 1024
/-- Records of a feed queue (R142). -/
def feedRecords : Nat := 96
/-- Slots of a feed queue (R142). -/
def feedSlots : Nat := 64

/-- FREE VALUE (log 12): the detail of FEED_LOW that POLL delivers for a channel whose unplayed positions are
"without meaning" (R142), for the draw given. -/
opaque unplayedWithoutMeaning : Nat → BitVec 32

end Sys2Proof.Config
end

