-- ==== Sys2Proof/Machine/State.lean ====
section
/-! DEFINITION. The state of the PW2040 as plain data, block by block, and its values at the start. -/

namespace Sys2Proof.Machine

/-! ### Names of values -/

/-- Width of a code: STANDARD 4 bits, COMPACT 3 bits (R2). -/
inductive Width where
  | standard
  | compact
  deriving DecidableEq, Repr

/-- Priority of a channel at the coder (R93, R101). -/
inductive Priority where
  | normal
  | urgent
  deriving DecidableEq, Repr

/-- Recording modes (R77). -/
inductive RecMode where
  | insert
  | overwrite
  deriving DecidableEq, Repr

/-- Kinds of mark: INSTRUCTION, SECTION, ATTENTION (R60). -/
inductive MarkKind where
  | instructionMark
  | sectionMark
  | attentionMark
  deriving DecidableEq, Repr

/-- Kinds of a channel (R74). -/
inductive ChanKind where
  | noKind
  | dictation
  | transcription
  deriving DecidableEq, Repr

/-- States of a channel (R75, R143). -/
inductive ChanState where
  | closed
  | ready
  | recording
  | draining
  | reviewing
  | stopped
  | playing
  | starved
  | ended
  deriving DecidableEq, Repr

/-- States of a letter record (R34). -/
inductive LetterState where
  | free
  | attached
  | detached
  | sealing
  deriving DecidableEq, Repr

/-- States of the start-up scan (R122). -/
inductive Startup where
  | loading
  | writing
  | checking
  | done
  | failed
  deriving DecidableEq, Repr

/-- Last restart cause (R194). -/
inductive Cause where
  | powerOn
  | resetLine
  | restartFull
  | restartKeep
  deriving DecidableEq, Repr

/-- Kinds of RESTART (R192). -/
inductive RestartKind where
  | full
  | keep
  deriving DecidableEq, Repr

/-- Link rates (R177). -/
inductive LinkRate where
  | mbaud1
  | mbaud2
  | mbaud4
  deriving DecidableEq, Repr

/-- States of the line clock monitor (R171). -/
inductive Lock where
  | absent
  | unlocked
  | locked
  deriving DecidableEq, Repr

/-- Sources of a retirement (R118). -/
inductive DefectSource where
  | factory
  | scan
  | runtime
  deriving DecidableEq, Repr

/-- The seventeen kinds of event (R185). -/
inductive EventKind where
  | startDone
  | lineLost
  | lineLocked
  | slotRetired
  | slotsLow
  | entriesLow
  | overrun
  | poolEmpty
  | letterFull
  | late
  | starved
  | drained
  | stopReached
  | markReached
  | feedLow
  | feedEnded
  | sealReady
  deriving DecidableEq, Repr

/-! ### Settings -/

/-- The settings of a channel (R93). -/
structure Settings where
  width : Width
  quiet : Nat
  hangover : Nat
  onset : Nat
  squeeze : Nat
  window : Nat
  priority : Priority
  backspace : Nat
  trim : Nat
  feedLow : Nat
  haltOnInstruction : Bool
  deriving DecidableEq, Repr

/-- The defaults of R93. -/
def Settings.defaults : Settings :=
  { width := .standard, quiet := 600, hangover := 15, onset := 1, squeeze := 40, window := 9000,
    priority := .normal, backspace := 75, trim := 0, feedLow := 100, haltOnInstruction := false }

/-- For each setting a staged value or none (R94). -/
structure Staged where
  width : Option Width
  quiet : Option Nat
  hangover : Option Nat
  onset : Option Nat
  squeeze : Option Nat
  window : Option Nat
  priority : Option Priority
  backspace : Option Nat
  trim : Option Nat
  feedLow : Option Nat
  haltOnInstruction : Option Bool
  deriving DecidableEq, Repr

/-- Nothing staged. -/
def Staged.empty : Staged :=
  { width := none, quiet := none, hangover := none, onset := none, squeeze := none, window := none,
    priority := none, backspace := none, trim := none, feedLow := none, haltOnInstruction := none }

/-- One setting with a value, as SET carries it (R93). -/
inductive SettingValue where
  | width (v : Width)
  | quiet (v : Nat)
  | hangover (v : Nat)
  | onset (v : Nat)
  | squeeze (v : Nat)
  | window (v : Nat)
  | priority (v : Priority)
  | backspace (v : Nat)
  | trim (v : Nat)
  | feedLow (v : Nat)
  | haltOnInstruction (v : Bool)
  deriving DecidableEq, Repr

/-! ### Letters -/

/-- Kinds of run (R36). -/
inductive RunKind where
  | pause
  | lost
  deriving DecidableEq, Repr

/-- What an entry stands for (R36, R37): a SPEECH position, PENDING without a slot or CODED with one, or a run. -/
inductive EntryBody where
  | speech (slot : Option Nat)
  | run (kind : RunKind) (count : Nat)
  deriving DecidableEq, Repr

/-- An entry with the number of its record, which the host never sees (R35, log 11). -/
structure Entry where
  id : Nat
  body : EntryBody
  deriving DecidableEq, Repr

/-- A mark (R60). -/
structure Mark where
  kind : MarkKind
  label : BitVec 16
  pos : Nat
  deriving DecidableEq, Repr

/-- A sealed entry with the marks sealed with it (R51, R69). -/
structure SealedEntry where
  entry : Entry
  marks : List Mark
  deriving DecidableEq, Repr

/-- A letter record (R33). `sealB` is the seal boundary and `sealedList` the sealed list. -/
structure Letter where
  state : LetterState
  job : Nat
  channel : Option Nat
  edit : List Entry
  sealedList : List SealedEntry
  cursor : Nat
  sealB : Nat
  length : Nat
  squeezed : Nat
  marks : List Mark
  overflow : Bool
  endTaken : Bool
  deriving DecidableEq, Repr

/-- A FREE record: every other field is without meaning and holds the value of a new letter (R33, log 26). -/
def Letter.freeRecord : Letter :=
  { state := .free, job := 0, channel := none, edit := [], sealedList := [], cursor := 0, sealB := 0, length := 0,
    squeezed := 0, marks := [], overflow := false, endTaken := false }

/-! ### Channels -/

/-- Detector states (2.1). -/
inductive DetPhase where
  | speech
  | pause
  deriving DecidableEq, Repr

/-- The pause detector of a channel (2.1, R18); `prevKept` is what R13 asks of the item decided before (log 20). -/
structure Detector where
  phase : DetPhase
  quiet : Nat
  loud : Nat
  hold : List Frame
  growing : Option Nat
  prevKept : Bool
  deriving DecidableEq, Repr

/-- The starting values of R18. -/
def Detector.start : Detector :=
  { phase := .speech, quiet := 0, loud := 0, hold := [], growing := none, prevKept := false }

/-- An occupied waiting buffer (R81): WAITING, or IN SERVICE. -/
structure WaitFrame where
  samples : Frame
  width : Width
  continues : Bool
  entry : Nat
  inService : Bool
  deriving DecidableEq, Repr

/-- An output buffer (R88). -/
inductive OutBuf where
  | empty
  | awaiting (pos : Nat)
  | filled (pos : Nat) (samples : Frame)
  | sending (samples : Frame)
  deriving DecidableEq, Repr

/-- Which of a channel's two output buffers. -/
inductive Side where
  | x
  | y
  deriving DecidableEq, Repr

/-- What a record of a feed queue holds (R147). -/
inductive FeedBody where
  | speech (slot : Nat)
  | pause (count : Nat)
  | lost (count : Nat) (damaged : Bool)
  | mark (kind : MarkKind) (label : BitVec 16) (armed : Bool)
  | endOf
  deriving DecidableEq, Repr

/-- A record of a feed queue at its position (R147); `id` is its entry record's number (log 11). The END record's
position is its final length. -/
structure FeedRec where
  id : Nat
  pos : Nat
  body : FeedBody
  deriving DecidableEq, Repr

/-- A channel (R74, R142). The capture pair is the list of its occupied buffers, oldest first; at most two. -/
structure Channel where
  kind : ChanKind
  state : ChanState
  letter : Option Nat
  recMode : Option RecMode
  pendingMode : Option RecMode
  captureStarted : Bool
  filling : Frame
  capture : List WaitFrame
  outX : OutBuf
  outY : OutBuf
  output : Option Frame
  playPoint : Option Nat
  prepPoint : Option Nat
  stopPoint : Option Nat
  outputBegun : Bool
  generation : BitVec 16
  settings : Settings
  staged : Staged
  dropped : Nat
  overrun : Nat
  late : Nat
  carry : Sample
  det : Detector
  expected : Option Nat
  endFed : Bool
  feed : List FeedRec
  deriving DecidableEq, Repr

/-- A channel with the values of power-on, the reset line and RESTART FULL (R14, R18, R74, R96). -/
def Channel.initial : Channel :=
  { kind := .noKind, state := .closed, letter := none, recMode := none, pendingMode := none, captureStarted := false,
    filling := [], capture := [], outX := .empty, outY := .empty, output := none, playPoint := none, prepPoint := none,
    stopPoint := none, outputBegun := false, generation := 0, settings := Settings.defaults, staged := Staged.empty,
    dropped := 0, overrun := 0, late := 0, carry := 0, det := Detector.start, expected := none, endFed := false,
    feed := [] }

/-! ### The coder -/

/-- Where a DECODE job's entry stands (R102). -/
inductive JobSource where
  | letter (index : Nat)
  | feedQueue
  deriving DecidableEq, Repr

/-- The job in service (R102). The buffer of an ENCODE job is the channel's one buffer IN SERVICE. -/
inductive Job where
  | encode (chan letter entry : Nat) (width : Width) (base : Sample)
  | decode (chan : Nat) (source : JobSource) (entry : Nat) (buffer : Side) (generation : BitVec 16)
  deriving DecidableEq, Repr

/-! ### Events, defects, the working store -/

/-- A pending flag with its detail (R185); `chan` is 255 for a device kind. -/
structure Event where
  kind : EventKind
  chan : Nat
  detail : BitVec 32
  label : BitVec 16
  deriving DecidableEq, Repr

/-- An entry of the defect table (R118). -/
structure Defect where
  slot : Nat
  source : DefectSource
  deriving DecidableEq, Repr

/-- The blocks that the edit list, the coder and the feed queues work on: channels, letters, pools, frame memory's
tables, low marks, the event register and the scheduler. `checked` is the slot that CHECKING has come to, and `scanBad`
lists the slots it has found to mismatch (log 31); `freeDraws` is the model's own (log 12). -/
structure Works where
  startup : Startup
  chans : List Channel
  letters : List Letter
  freeEntries : Nat
  nextEntry : Nat
  freePool : List Nat
  factory : List Nat
  defects : List Defect
  unlisted : Nat
  defectOverflow : Bool
  slotMark : Nat
  slotArmed : Bool
  entryMark : Nat
  entryArmed : Bool
  events : List Event
  mask : BitVec 32
  job : Option Job
  pointer : Nat
  checked : Nat
  scanBad : List Nat
  freeDraws : Nat
  deriving DecidableEq, Repr

/-- The mask that enables all seventeen kinds (R184, R189). -/
def fullMask : BitVec 32 := 0x0007FF3F#32

/-- The values of power-on, the reset line and RESTART FULL as the scan begins in LOADING (R35, R59, R74, R97, R115,
R122, R128, R129, R184, R185), for a part whose factory defect list is given. The slot low mark is armed when the scan
ends DONE (log 28), and the free values drawn before a start are not drawn again after it (log 12). -/
def Works.start (factory : List Nat) (draws : Nat) : Works :=
  { startup := .loading, chans := List.replicate Config.channelCount Channel.initial,
    letters := List.replicate Config.letterCount Letter.freeRecord, freeEntries := Config.entryCount, nextEntry := 0,
    freePool := [], factory := factory, defects := [], unlisted := 0, defectOverflow := false, slotMark := 512,
    slotArmed := false, entryMark := 256, entryArmed := true, events := [], mask := fullMask, job := none, pointer := 0,
    checked := 0, scanBad := [], freeDraws := draws }

/-! ### Link, line, monitor, slot contents -/

/-- A request message without lead and length bytes (R189). -/
structure Message where
  kind : Byte
  target : Byte
  tag : Byte
  body : List Byte
  deriving DecidableEq, Repr

/-- The receiver (R178): HUNTING, or ASSEMBLING with the length bytes got so far, with the rest got so far (newest
first; `left` more are wanted; of a receive overrun none is kept), or with its message discarded by a break that still
lasts. -/
inductive Receiver where
  | hunting
  | lengthBytes (got : List Byte)
  | collecting (left : Nat) (got : List Byte) (overrun : Bool)
  | brokenOff
  deriving DecidableEq, Repr

/-- The control link (R177 to R180); `restart` is the RESTART taken and not yet made (R192). -/
structure Link where
  rate : LinkRate
  receiver : Receiver
  breakOn : Bool
  rx : List Message
  tx : List Byte
  framing : Nat
  overrun : Nat
  discarded : Nat
  restart : Option RestartKind
  deriving DecidableEq, Repr

/-- The rate that the straps select (R177). -/
def LinkRate.ofStraps (p : Straps) : LinkRate :=
  if p.rate1 then .mbaud4 else if p.rate0 then .mbaud2 else .mbaud1

/-- The link after a start at the given rate (R188). -/
def Link.start (rate : LinkRate) : Link :=
  { rate := rate, receiver := .hunting, breakOn := false, rx := [], tx := [], framing := 0, overrun := 0, discarded := 0,
    restart := none }

/-- The timeslots bound to a channel (R169). -/
structure Binding where
  rx : Option Nat
  tx : Option Nat
  deriving DecidableEq, Repr

/-- No timeslot bound. -/
def Binding.unbound : Binding := { rx := none, tx := none }

/-- The line port (R163, R164, R169): `hdx` gives for each transmit timeslot of the open line frame the sample driven or
none. -/
structure Line where
  frameCounter : Nat
  bindings : List Binding
  hdx : List (Option Sample)
  frameOpen : Bool
  deriving DecidableEq, Repr

/-- No transmit timeslot driven. -/
def undriven : List (Option Sample) := List.replicate Config.timeslotCount none

/-- The line port after power-on and the reset line (R163, R164, R170). -/
def Line.start : Line :=
  { frameCounter := 0, bindings := List.replicate Config.channelCount Binding.unbound, hdx := undriven,
    frameOpen := false }

/-- The line clock monitor (R171). -/
structure Monitor where
  lock : Lock
  ticks : Nat
  windowTicks : Nat
  windowSyncs : Nat
  good : Nat
  fast : Bool
  slow : Bool
  maxDrift : Nat
  tolerance : Nat
  deriving DecidableEq, Repr

/-- The monitor after a start, with the tolerance given: 2, or kept at RESTART KEEP (R171). -/
def Monitor.start (tolerance : Nat) : Monitor :=
  { lock := .absent, ticks := 0, windowTicks := 0, windowSyncs := 0, good := 0, fast := false, slow := false,
    maxDrift := 0, tolerance := tolerance }

/-- Slot contents (R113). `listed` gives slots, strictly rising, with the 42 words that each holds. A slot not listed holds
the pattern that WRITING laid into it (R124, R125): `pattern` names the slots that WRITING left out, and a slot left out,
or every slot while `pattern` is none, holds the words that the model gives it at power-on (log 10). -/
structure Store where
  listed : List (Nat × List StoredWord)
  pattern : Option (List Nat)
  deriving DecidableEq, Repr

/-- Nothing written since power-on: every slot holds the words that the model gives it there (log 10). -/
def Store.blank : Store := { listed := [], pattern := none }

/-! ### The machine -/

/-- The machine. `pending` is the queue of commands that wait, first in first out. -/
structure State where
  pending : List Instr
  resetAsserted : Bool
  lastCause : Cause
  link : Link
  line : Line
  monitor : Monitor
  store : Store
  works : Works
  deriving DecidableEq, Repr

/-- Reasons the model stops. -/
inductive Fault where
  /-- Raised by DECODE_COMPLETION and TAKE when the entry that they read names a slot beyond the 8192 of R113, as none does in
  a state reached from a start: safe (log 10). -/
  | noSuchSlot (slot : Nat)
  deriving DecidableEq, Repr

/-- Reasons the model has no meaning for a command. -/
inductive Refusal where
  /-- Raised by an arm of exec whose command has no meaning yet: safe. No arm raises it now. -/
  | notModelled (mnemonic : String)
  deriving DecidableEq, Repr

/-- The machine right after power-on with both straps low, and a part with an empty factory defect list (R191, log 7,
log 8). -/
def State.reset : State :=
  { pending := [], resetAsserted := false, lastCause := .powerOn, link := Link.start .mbaud1, line := Line.start,
    monitor := Monitor.start 2, store := Store.blank, works := Works.start [] 0 }

end Sys2Proof.Machine
end

