-- ==== Sys2Proof/Machine/Bytes.lean ====
section
/-! DEFINITION. Byte order of the link and of slot words (R113, R189): little-endian fields in and out. -/

namespace Sys2Proof.Machine

/-- The `n` little-endian bytes of a number (R189). -/
def leBytes : Nat → Nat → List Byte
  | 0, _ => []
  | n + 1, v => BitVec.ofNat 8 v :: leBytes n (v / 256)

/-- The number that little-endian bytes hold (R189). -/
def leValue : List Byte → Nat
  | [] => 0
  | b :: rest => b.toNat + 256 * leValue rest

/-- The signed number that four little-endian bytes hold (R189). -/
def leSigned (bytes : List Byte) : Int := (BitVec.ofNat 32 (leValue bytes)).toInt

/-- One byte with the number given. -/
def byte1 (v : Nat) : List Byte := leBytes 1 v

/-- Two bytes. -/
def byte2 (v : Nat) : List Byte := leBytes 2 v

/-- A position field: three bytes (R189). -/
def byte3 (v : Nat) : List Byte := leBytes 3 v

/-- Four bytes. -/
def byte4 (v : Nat) : List Byte := leBytes 4 v

/-- A flag: 0x00 clear, 0x01 set (R189). -/
def flagByte (b : Bool) : Byte := if b then 1#8 else 0#8

/-- Channel, letter index or timeslot, none being 0xFF (R189). -/
def optByte : Option Nat → Byte
  | some n => BitVec.ofNat 8 n
  | none => 0xFF#8

/-- A position that may be absent, sent as 0 while absent (R189). -/
def posOrZero (p : Option Nat) : List Byte := byte3 (p.getD 0)

end Sys2Proof.Machine
end

