-- ==== Sys2Proof/Machine/Coding.lean ====
section
/-! DEFINITION. Frame coding (01_frame_coding.md): the coder's arithmetic, the frame record, its layout in bytes (R189), the
words and parity of a slot (R113), and the pattern of the start-up scan (R124). -/

namespace Sys2Proof.Machine

/-! ### Width and code range (R2) -/

/-- Bits per code. -/
def Width.bits : Width → Nat
  | .standard => 4
  | .compact => 3

/-- The largest code. -/
def Width.qmax : Width → Int
  | .standard => 7
  | .compact => 3

/-- The smallest code. -/
def Width.qmin : Width → Int
  | .standard => -8
  | .compact => -4

/-- Limit a value to a range. -/
def limit (lo hi v : Int) : Int := if v < lo then lo else if hi < v then hi else v

/-- Limit a sum to the sample range (R6). -/
def saturate (v : Int) : Int := limit (-32768) 32767 v

/-! ### Encoding (R3 to R7) -/

/-- The open-loop peak D of samples that follow `prev` (R3). -/
def openLoopPeak : Int → List Int → Nat
  | _, [] => 0
  | prev, x :: rest => max (x - prev).natAbs (openLoopPeak x rest)

/-- Whether an exponent's range reaches the peak (R4). -/
def exponentFits (w : Width) (peak e : Nat) : Bool := decide ((peak : Int) ≤ w.qmax * 2 ^ e)

/-- The exponent: the smallest of 0..15 whose range reaches the peak (R4). -/
def exponentOf (w : Width) (peak : Nat) : Nat := ((List.range 16).find? (exponentFits w peak)).getD 15

/-- The unrounded code q0: the difference in whole steps, an exact half toward plus infinity (R5). The divisor is positive,
so Lean's integer division is the mathematical floor. -/
def unroundedCode (e : Nat) (d : Int) : Int := if e = 0 then d else (d + 2 ^ (e - 1)) / 2 ^ e

/-- The stored code: q0 limited to the width's range (R6, step 1). -/
def clampCode (w : Width) (q0 : Int) : Int := limit w.qmin w.qmax q0

/-- The reconstruction of one sample from its prediction and its code (R6 step 2, R10). -/
def reconstruct (e : Nat) (p q : Int) : Int := saturate (p + q * 2 ^ e)

/-- The closed loop over the samples from prediction `p`: each sample's code and reconstruction (R5, R6). -/
def closedLoop (w : Width) (e : Nat) : Int → List Int → List (Int × Int)
  | _, [] => []
  | p, x :: rest =>
    let q := clampCode w (unroundedCode e (x - p))
    let r := reconstruct e p q
    (q, r) :: closedLoop w e r rest

/-- A frame record (R16). -/
structure FrameRecord where
  width : Width
  exponent : Nat
  base : Sample
  codes : List Int
  damaged : Bool
  deriving DecidableEq, Repr

/-- The samples of a frame as integers. -/
def toInts (f : Frame) : List Int := f.map BitVec.toInt

/-- The exponent that the coder chooses for a frame with its width and base (R3, R4). -/
def frameExponent (w : Width) (base : Sample) (f : Frame) : Nat :=
  exponentOf w (openLoopPeak base.toInt (toInts f))

/-- Codes and reconstructions of a frame (R5, R6). -/
def encodeSteps (w : Width) (base : Sample) (f : Frame) : List (Int × Int) :=
  closedLoop w (frameExponent w base f) base.toInt (toInts f)

/-- The frame record of an ENCODE job, its damaged flag clear (R7, R16). -/
def encodeFrame (w : Width) (base : Sample) (f : Frame) : FrameRecord :=
  { width := w, exponent := frameExponent w base f, base := base, codes := (encodeSteps w base f).map Prod.fst,
    damaged := false }

/-- The last reconstruction, which becomes the carry (R7, R14). -/
def finalReconstruction (w : Width) (base : Sample) (f : Frame) : Sample :=
  match (encodeSteps w base f).getLast? with
  | some (_, r) => BitVec.ofInt 16 r
  | none => base

/-! ### Decoding (R9, R10) -/

/-- The decoder's loop: each reconstruction is the predecessor of the next (R10). -/
def decodeLoop (e : Nat) : Int → List Int → List Int
  | _, [] => []
  | p, c :: rest =>
    let r := reconstruct e p c
    r :: decodeLoop e r rest

/-- The samples of a frame record (R9, R10). -/
def decodeFrame (r : FrameRecord) : Frame :=
  (decodeLoop r.exponent r.base.toInt r.codes).map (BitVec.ofInt 16)

/-! ### Layout of the frame record (R189) -/

/-- Bytes of a frame record (R16). -/
def Width.recordBytes : Width → Nat
  | .standard => 83
  | .compact => 63

/-- A code as a W-bit two's-complement number (R2). -/
def codeBits (w : Nat) (c : Int) : Nat := (BitVec.ofInt w c).toNat

/-- The code that a W-bit pattern stands for (R2). -/
def codeOfBits (w v : Nat) : Int := (BitVec.ofNat w v).toInt

/-- STANDARD codes, two a byte, the earlier in bits 3..0 (R189). -/
def packStandard : List Int → List Byte
  | a :: b :: rest => BitVec.ofNat 8 (codeBits 4 a + 16 * codeBits 4 b) :: packStandard rest
  | _ => []

/-- COMPACT codes, eight in three bytes, code j in bits 3j to 3j + 2 of their little-endian value (R189). -/
def packCompact : List Int → List Byte
  | a :: b :: c :: d :: e :: f :: g :: h :: rest =>
    leBytes 3 (codeBits 3 a + 8 * (codeBits 3 b + 8 * (codeBits 3 c + 8 * (codeBits 3 d + 8 * (codeBits 3 e +
      8 * (codeBits 3 f + 8 * (codeBits 3 g + 8 * codeBits 3 h))))))) ++ packCompact rest
  | _ => []

/-- The codes of STANDARD bytes (R189). -/
def unpackStandard : List Byte → List Int
  | [] => []
  | b :: rest => codeOfBits 4 b.toNat :: codeOfBits 4 (b.toNat / 16) :: unpackStandard rest

/-- The eight codes of a 24-bit value (R189). -/
def compactGroup (v : Nat) : List Int := (List.range 8).map fun j => codeOfBits 3 (v / 8 ^ j)

/-- The codes of COMPACT bytes (R189). -/
def unpackCompact : List Byte → List Int
  | a :: b :: c :: rest => compactGroup (leValue [a, b, c]) ++ unpackCompact rest
  | _ => []

/-- Byte 0 of a frame record: exponent in bits 3..0, width flag in bit 4, damaged flag in bit 5 (R189). -/
def headerByte (r : FrameRecord) : Byte :=
  BitVec.ofNat 8 (r.exponent % 16 + (if r.width = .standard then 16 else 0) + (if r.damaged then 32 else 0))

/-- A frame record in bytes (R189). -/
def FrameRecord.toBytes (r : FrameRecord) : List Byte :=
  headerByte r :: leBytes 2 r.base.toNat ++
    (match r.width with
      | .standard => packStandard r.codes
      | .compact => packCompact r.codes)

/-- The width that the header byte gives (R189). -/
def headerWidth (b : Byte) : Width := if b.getLsbD 4 then .standard else .compact

/-- The damaged flag of the header byte (R189). -/
def headerDamaged (b : Byte) : Bool := b.getLsbD 5

/-- Take exactly `n` bytes from the front of a list that has them. -/
def takeBytes (n : Nat) (bytes : List Byte) : Option (List Byte × List Byte) :=
  if n ≤ bytes.length then some (bytes.take n, bytes.drop n) else none

/-- The codes in the bytes after the header (R189). -/
def unpackCodes (w : Width) (bytes : List Byte) : List Int :=
  match w with
  | .standard => unpackStandard (bytes.take 80)
  | .compact => unpackCompact (bytes.take 60)

/-- The frame record at the front of bytes (R189); bits 7..6 of byte 0 are ignored. -/
def FrameRecord.ofBytes (bytes : List Byte) : FrameRecord :=
  let h := bytes.headD 0#8
  { width := headerWidth h, exponent := h.toNat % 16,
    base := BitVec.ofNat 16 (leValue ((bytes.drop 1).take 2)),
    codes := unpackCodes (headerWidth h) (bytes.drop 3), damaged := headerDamaged h }

/-! ### Slot words and parity (R113, R114) -/

/-- Whether the bits of a stored word, parity bit included, hold an odd number of ones (R113). -/
def oddOnes (w : StoredWord) : Bool := (List.range 17).foldl (fun acc i => acc ^^ w.getLsbD i) false

/-- A word with the parity bit that makes the seventeen bits hold an odd number of ones (R113). -/
def withParity (w : BitVec 16) : StoredWord :=
  let plain : StoredWord := w.setWidth 17
  if oddOnes plain then plain else plain ||| 0x10000#17

/-- Word i of a slot is formed from bytes 2i and 2i + 1, the lower-numbered the less significant (R113). -/
def wordsOfBytes : List Byte → List StoredWord
  | lo :: hi :: rest => withParity (hi ++ lo) :: wordsOfBytes rest
  | [lo] => [withParity (0#8 ++ lo)]
  | [] => []

/-- The bytes that the words of a slot hold (R113). -/
def bytesOfWords : List StoredWord → List Byte
  | [] => []
  | w :: rest => w.setWidth 8 :: (w >>> 8).setWidth 8 :: bytesOfWords rest

/-- The 42 words of a slot into which a frame record's bytes are written: the remaining bytes are zeros (R113). -/
def slotImage (bytes : List Byte) : List StoredWord :=
  wordsOfBytes ((bytes ++ List.replicate (2 * Config.slotWords) 0#8).take (2 * Config.slotWords))

/-- The bits by which word `i` of slot `slot` reads back wrong: all errors named for it together (log 9). -/
def errorMask (errs : List CellError) (slot i : Nat) : StoredWord :=
  errs.foldl (fun acc e => if e.slot = slot ∧ e.word = i then acc ^^^ e.mask else acc) 0#17

/-- What a read of a slot returns: each stored word with its wrong bits, word `i` first. -/
def readBackFrom (errs : List CellError) (slot : Nat) : Nat → List StoredWord → List StoredWord
  | _, [] => []
  | i, w :: rest => (w ^^^ errorMask errs slot i) :: readBackFrom errs slot (i + 1) rest

/-- What a read of a slot returns (R114, log 9). -/
def readBack (errs : List CellError) (slot : Nat) (words : List StoredWord) : List StoredWord :=
  readBackFrom errs slot 0 words

/-- The read passes when every word and its parity hold an odd number of ones (R114). -/
def readPasses (words : List StoredWord) : Bool := words.all oddOnes

/-! ### The scan pattern (R124) -/

/-- The fifteen held bits as a number, the oldest the most significant: fourteen zeros and a one (R124). -/
def patternSeed : Nat := 1

/-- One step of the shift sequence: the new bit is the exclusive-or of the two oldest, and the oldest is dropped (R124). -/
def patternStep (held : Nat) : Nat := 2 * held % 32768 + (held.testBit 14 ^^ held.testBit 13).toNat

/-- The held bits after `n` steps. They are never all zero (R124). -/
def patternAfter : Nat → Nat → Nat
  | 0, held => held
  | _ + 1, 0 => 0
  | n + 1, held + 1 => patternAfter n (patternStep (held + 1))

/-- The next sixteen bits of the sequence, the first the most significant (R124). -/
def patternWord (held : Nat) : BitVec 16 := BitVec.ofNat 16 (2 * patternAfter 15 held + patternAfter 16 held % 2)

/-- The next `n` words of the sequence, each with its parity (R113, R124). -/
def patternRun : Nat → Nat → List StoredWord
  | 0, _ => []
  | n + 1, held => withParity (patternWord held) :: patternRun n (patternAfter 16 held)

/-- How many slots are written before a slot: those below it that are not left out (R124, R125). -/
def patternOrdinal (skipped : List Nat) (slot : Nat) : Nat :=
  slot - (skipped.filter fun f => decide (f < slot)).length

/-- The 42 pattern words of a slot where the slots `skipped` are left out: the sequence repeats after 32,767 bits, and each
slot written takes 672 of them (R124, R125). -/
def patternWords (skipped : List Nat) (slot : Nat) : List StoredWord :=
  patternRun Config.slotWords
    (patternAfter (16 * Config.slotWords * patternOrdinal skipped slot % Config.patternPeriod) patternSeed)

end Sys2Proof.Machine
end

