-- ==== Sys2Proof/Machine/Flags.lean ====
section
/-! DEFINITION. The event register with ATTN (R185 to R187), saturating counters (R1, R91, R179), and the low marks
(R128 to R130). -/

namespace Sys2Proof.Machine

/-! ### Counters -/

/-- A counter that goes up by 1 and saturates at 65535 (R26, R91). -/
def sat16 (n : Nat) : Nat := min (n + 1) 65535

/-- A link count that goes up by 1 and saturates at 255 (R179). -/
def sat8 (n : Nat) : Nat := min (n + 1) 255

/-! ### The event register -/

/-- The code of an event kind (R185). -/
def EventKind.code : EventKind → Nat
  | .startDone => 0x01
  | .lineLost => 0x02
  | .lineLocked => 0x03
  | .slotRetired => 0x04
  | .slotsLow => 0x05
  | .entriesLow => 0x06
  | .overrun => 0x10
  | .poolEmpty => 0x11
  | .letterFull => 0x12
  | .late => 0x13
  | .starved => 0x14
  | .drained => 0x15
  | .stopReached => 0x16
  | .markReached => 0x17
  | .feedLow => 0x18
  | .feedEnded => 0x19
  | .sealReady => 0x1A

/-- Whether a kind is a channel kind (R185). -/
def EventKind.ofChannel (k : EventKind) : Bool := decide (0x10 ≤ k.code)

/-- The bit of the event mask that enables a kind (R189). -/
def EventKind.maskBit (k : EventKind) : Nat := if k.ofChannel then k.code - 8 else k.code - 1

/-- The channel byte of a device event (R187). -/
def deviceChan : Nat := 0xFF

/-- POLL order: device kinds, then channel kinds, in the order of their codes, each by ascending channel (R187). -/
def Event.key (e : Event) : Nat := 256 * e.kind.code + e.chan

/-- Put an event among the pending ones in POLL order; a flag already pending takes the new detail (R185). -/
def putEvent (e : Event) : List Event → List Event
  | [] => [e]
  | f :: rest =>
    if e.key < f.key then e :: f :: rest
    else if e.key = f.key then e :: rest
    else f :: putEvent e rest

/-- Raise an event: during a scan and while the part is FAULTED a raise sets no flag (R185). -/
def Works.raiseWith (k : Works) (kind : EventKind) (chan : Nat) (detail : BitVec 32) (label : BitVec 16) : Works :=
  if k.startup = .done then { k with events := putEvent ⟨kind, chan, detail, label⟩ k.events } else k

/-- Raise a channel event with a stored detail. -/
def Works.raise (k : Works) (kind : EventKind) (chan : Nat) (detail : Nat) : Works :=
  k.raiseWith kind chan (BitVec.ofNat 32 detail) 0#16

/-- Raise a channel event whose detail is read at POLL (R185). -/
def Works.raiseCount (k : Works) (kind : EventKind) (chan : Nat) : Works := k.raiseWith kind chan 0#32 0#16

/-- Raise a device event with a stored detail. -/
def Works.raiseDevice (k : Works) (kind : EventKind) (detail : BitVec 32) : Works :=
  k.raiseWith kind deviceChan detail 0#16

/-- Whether a pending event's kind is enabled in the mask (R186). -/
def Works.enabled (k : Works) (e : Event) : Bool := k.mask.getLsbD e.kind.maskBit

/-- The event that POLL delivers (R187). -/
def Works.mostUrgent (k : Works) : Option Event := k.events.find? k.enabled

/-- ATTN: asserted while a flag is pending whose kind is enabled (R186), and released while the part is held (R191). -/
def State.attn (s : State) : Bool := !s.resetAsserted && s.works.events.any s.works.enabled

/-! ### Low marks -/

/-- After an event that takes slots: an armed mark that the free count has fallen below raises SLOTS_LOW and is disarmed
(R128). -/
def Works.slotsTaken (k : Works) : Works :=
  if k.slotArmed && decide (k.freePool.length < k.slotMark) then
    { k with slotArmed := false }.raiseDevice .slotsLow 0#32
  else k

/-- After an event that frees slots: a disarmed mark is armed at the mark plus 64 (R128). -/
def Works.slotsFreed (k : Works) : Works :=
  if !k.slotArmed && decide (k.slotMark + 64 ≤ k.freePool.length) then { k with slotArmed := true } else k

/-- After an event that takes entries (R129). -/
def Works.entriesTaken (k : Works) : Works :=
  if k.entryArmed && decide (k.freeEntries < k.entryMark) then
    { k with entryArmed := false }.raiseDevice .entriesLow 0#32
  else k

/-- After an event that returns entries (R129). -/
def Works.entriesFreed (k : Works) : Works :=
  if !k.entryArmed && decide (k.entryMark + 64 ≤ k.freeEntries) then { k with entryArmed := true } else k

/-- CONFIGURE with a slot low mark: it is set and armed, and the count compared with it at once (R130). -/
def Works.setSlotMark (k : Works) (mark : Nat) : Works := { k with slotMark := mark, slotArmed := true }.slotsTaken

/-- CONFIGURE with an entry low mark (R130). -/
def Works.setEntryMark (k : Works) (mark : Nat) : Works := { k with entryMark := mark, entryArmed := true }.entriesTaken

/-- RESTART KEEP: each mark is armed when its count stands at or above it and disarmed otherwise; nothing is raised
(R128, R129). -/
def Works.rearmMarks (k : Works) : Works :=
  { k with slotArmed := decide (k.slotMark ≤ k.freePool.length), entryArmed := decide (k.entryMark ≤ k.freeEntries) }

end Sys2Proof.Machine
end

