-- ==== Sys2Proof/Machine/Ops.lean ====
section
/-! DEFINITION. The named operations every meaning shares: records of channels and letters, the two pools, retirement, slot
contents, and the carrying out of a request with its reply. -/

namespace Sys2Proof.Machine

/-! ### Channels and letters -/

/-- Channel `c`. -/
def Works.chan (k : Works) (c : Nat) : Channel := k.chans.getD c Channel.initial

/-- Change channel `c`. -/
def Works.modChan (k : Works) (c : Nat) (f : Channel → Channel) : Works :=
  { k with chans := k.chans.set c (f (k.chan c)) }

/-- Letter record `i`. -/
def Works.letter (k : Works) (i : Nat) : Letter := k.letters.getD i Letter.freeRecord

/-- Change letter record `i`. -/
def Works.modLetter (k : Works) (i : Nat) (f : Letter → Letter) : Works :=
  { k with letters := k.letters.set i (f (k.letter i)) }

/-- The record of the letter that is not FREE and holds a job number (R33: there is at most one). -/
def Works.findJob (k : Works) (job : Nat) : Option Nat :=
  k.letters.findIdx? fun l => decide (l.state ≠ .free) && decide (l.job = job)

/-- The lowest-numbered FREE record (R53). -/
def Works.findFree (k : Works) : Option Nat := k.letters.findIdx? fun l => decide (l.state = .free)

/-- The channel numbers in ascending order. -/
def channelNumbers : List Nat := List.range Config.channelCount

/-- Carry out work for each channel in ascending order. -/
def Works.eachChan (k : Works) (f : Works → Nat → Works) : Works := channelNumbers.foldl f k

/-! ### Pools -/

/-- Return entries to the pool and slots to the tail of the free pool, with the comparisons that follow a free (R116, R128,
R129). -/
def Works.giveBack (k : Works) (entries : Nat) (slots : List Nat) : Works :=
  let k1 := { k with freeEntries := k.freeEntries + entries, freePool := k.freePool ++ slots }
  let k2 := if slots.isEmpty then k1 else k1.slotsFreed
  if entries = 0 then k2 else k2.entriesFreed

/-- The total of retired slots (R118). -/
def Works.retired (k : Works) : Nat := k.defects.length + k.unlisted

/-- Retire a slot that has left its holder (R119): it is listed while there is room, and counted otherwise. -/
def Works.retire (k : Works) (slot : Nat) (source : DefectSource) : Works :=
  if k.defects.length < Config.defectCount then { k with defects := k.defects ++ [⟨slot, source⟩] }
  else { k with unlisted := k.unlisted + 1, defectOverflow := true }

/-- Retirement at run time raises SLOT_RETIRED with the slot's number (R120). -/
def Works.retireAtRun (k : Works) (slot : Nat) : Works :=
  (k.retire slot .runtime).raiseDevice .slotRetired (BitVec.ofNat 32 slot)

/-! ### Entries -/

/-- Positions an entry covers (R36). -/
def EntryBody.count : EntryBody → Nat
  | .speech _ => 1
  | .run _ n => n

/-- Positions an entry covers (R36). -/
def Entry.count (e : Entry) : Nat := e.body.count

/-- Whether an entry is SPEECH and PENDING (R37). -/
def Entry.isPending (e : Entry) : Bool :=
  match e.body with
  | .speech none => true
  | _ => false

/-- The slot that an entry holds. -/
def Entry.slot (e : Entry) : Option Nat :=
  match e.body with
  | .speech held => held
  | .run _ _ => none

/-- The slots that entries hold, in their order. -/
def slotsOf (es : List Entry) : List Nat := es.filterMap Entry.slot

/-- Positions that entries cover together (R38). -/
def spanOf (es : List Entry) : Nat := (es.map Entry.count).sum

/-- Change the body of the entry with a number. -/
def setBody (id : Nat) (body : EntryBody) (es : List Entry) : List Entry :=
  es.map fun e => if e.id = id then { e with body := body } else e

/-! ### Output of a channel -/

/-- Empty the output pair and cut the output frame off (R87, R88, R167); the play generation goes up by 1, from 65535 to 0
(R90). -/
def Channel.cutOff (ch : Channel) : Channel :=
  { ch with outX := .empty, outY := .empty, output := none, generation := ch.generation + 1 }

/-- A channel becomes CLOSED with kind none and no letter (R74). -/
def Channel.close (ch : Channel) : Channel := { ch with kind := .noKind, state := .closed, letter := none }

/-- A channel is opened with its counters 0 (R74, R91). -/
def Channel.openAs (ch : Channel) (kind : ChanKind) (state : ChanState) (letter : Option Nat) : Channel :=
  { ch with kind := kind, state := state, letter := letter, dropped := 0, overrun := 0, late := 0 }

/-! ### Slot contents -/

/-- What the model lets every slot hold at power-on, where the spec gives no contents: words of zeros with their parity
(log 10). -/
def blankWords : List StoredWord := List.replicate Config.slotWords (withParity 0#16)

/-- What a slot that is not listed holds: the pattern words that WRITING laid into it (R124, R125), or those of power-on where
WRITING left it out or has not been (log 10). Beyond slot 8191 there is none (R113). -/
def Store.background (st : Store) (slot : Nat) : Option (List StoredWord) :=
  if slot < Config.slotCount then
    match st.pattern with
    | some skipped => if skipped.contains slot then some blankWords else some (patternWords skipped slot)
    | none => some blankWords
  else none

/-- The words listed for a slot. -/
def findSlot (slot : Nat) (cells : List (Nat × List StoredWord)) : Option (List StoredWord) :=
  (cells.find? fun p => decide (p.1 = slot)).map Prod.snd

/-- The 42 words that a slot holds (R113). -/
def Store.words (st : Store) (slot : Nat) : Option (List StoredWord) :=
  match findSlot slot st.listed with
  | some words => some words
  | none => st.background slot

/-- Put a slot's words among those listed, slots strictly rising. -/
def putSlot (slot : Nat) (words : List StoredWord) : List (Nat × List StoredWord) → List (Nat × List StoredWord)
  | [] => [(slot, words)]
  | p :: rest =>
    if slot < p.1 then (slot, words) :: p :: rest
    else if slot = p.1 then (slot, words) :: rest
    else p :: putSlot slot words rest

/-- Write words into a slot: the whole slot is replaced (R113). Words that the slot would hold unlisted are not listed. -/
def Store.put (st : Store) (slot : Nat) (words : List StoredWord) : Store :=
  if st.background slot = some words then { st with listed := st.listed.filter fun p => decide (p.1 ≠ slot) }
  else { st with listed := putSlot slot words st.listed }

/-- Write a frame record's bytes into a slot, the bytes after them as zeros (R113). -/
def Store.write (st : Store) (slot : Nat) (bytes : List Byte) : Store := st.put slot (slotImage bytes)

/-- Write several slots. -/
def Store.writeAll (st : Store) (writes : List (Nat × List Byte)) : Store :=
  writes.foldl (fun acc p => acc.write p.1 p.2) st

/-- The slot numbers in ascending order. -/
def slotNumbers : List Nat := List.range Config.slotCount

/-- What WRITING lists of a slot that it leaves out: its words, unless they are those of power-on. -/
def Store.keptWords (st : Store) (slot : Nat) : Option (List StoredWord) :=
  (st.words slot).filter fun words => decide (words ≠ blankWords)

/-- WRITING of the scan: every slot but those left out takes its pattern words, whatever it held; those left out keep what
they hold (R125). -/
def Store.writePattern (st : Store) (skipped : List Nat) : Store :=
  { listed := (slotNumbers.filter skipped.contains).filterMap fun n => (st.keptWords n).map (n, ·),
    pattern := some skipped }

/-- The canonical form: slots strictly rising, each with 42 words (R113) that it would not hold unlisted. -/
def Store.wf (st : Store) : Bool :=
  decide (st.listed.Pairwise fun p q => p.1 < q.1) &&
    st.listed.all fun p => decide (p.2.length = Config.slotWords) && decide (st.background p.1 ≠ some p.2)

/-- The bytes of a slot as a read returns them, or none when the read fails (R114); a slot beyond the 8192 is the model's
fault (log 10). -/
def Store.read (st : Store) (errs : List CellError) (slot : Nat) : Except Fault (Option (List Byte)) :=
  match st.words slot with
  | none => .error (.noSuchSlot slot)
  | some words =>
    let got := readBack errs slot words
    .ok (if readPasses got then some (bytesOfWords got) else none)

/-- Whether an unlisted slot holds the pattern of a scan that left out the slots `skipped`, and no error names it. -/
def Store.plainlyMatches (st : Store) (errs : List CellError) (skipped : List Nat) (slot : Nat) : Bool :=
  decide (st.pattern = some skipped) && !skipped.contains slot && (findSlot slot st.listed).isNone &&
    !errs.any fun e => decide (e.slot = slot)

/-- A slot mismatches in CHECKING when a word or its parity bit reads otherwise than the pattern word expected (R126). The
first test only spares the comparison (Laws: Store.mismatches_eq). -/
def Store.mismatches (st : Store) (errs : List CellError) (skipped : List Nat) (slot : Nat) : Bool :=
  !st.plainlyMatches errs skipped slot &&
    decide ((st.words slot).map (readBack errs slot) ≠ some (patternWords skipped slot))

/-! ### Requests and replies -/

/-- The statuses (R181). -/
inductive Status where
  | ok
  | clamped
  | unknownKind
  | badTarget
  | badField
  | notOpen
  | wrongKind
  | busy
  | inUse
  | full
  | poolEmpty
  | gap
  | ended
  | starting
  | faulted
  deriving DecidableEq, Repr

/-- The code of a status (R181). -/
def Status.code : Status → Byte
  | .ok => 0x00#8
  | .clamped => 0x01#8
  | .unknownKind => 0x80#8
  | .badTarget => 0x81#8
  | .badField => 0x82#8
  | .notOpen => 0x83#8
  | .wrongKind => 0x84#8
  | .busy => 0x85#8
  | .inUse => 0x86#8
  | .full => 0x87#8
  | .poolEmpty => 0x88#8
  | .gap => 0x89#8
  | .ended => 0x8A#8
  | .starting => 0x8B#8
  | .faulted => 0x8C#8

/-- OK, or CLAMPED when a numeric value was limited (R181). -/
def okOrClamped (wasClamped : Bool) : Status := if wasClamped then .clamped else .ok

/-- A status with the body of its reply. -/
structure Reply where
  status : Status
  body : List Byte
  deriving DecidableEq, Repr

/-- A refusal: any status but OK and CLAMPED, with an empty body (R181). -/
def refuse (status : Status) : Reply := { status := status, body := [] }

/-- The kind byte of the reply to a kind (R180). -/
def replyKind (kind : Byte) : Byte := if kind < 0x80#8 then kind + 0x80#8 else kind

/-- A reply in bytes: lead byte, length, kind, target, tag, status, body (R180, R189). -/
def replyBytes (m : Message) (r : Reply) : List Byte :=
  0xD7#8 :: leBytes 2 (4 + r.body.length) ++ [replyKind m.kind, m.target, m.tag, r.status.code] ++ r.body

/-- Let the oldest bytes leave LTXD until the transmit queue has room for a reply of the largest size, as it has whenever
the controller takes a request (R180, log 4). -/
def makeRoom (tx : List Byte) : List Byte := tx.drop (tx.length - (Config.txBytes - Config.maxReply))

/-- Place the reply at the back of the transmit queue (R180). -/
def State.placeReply (s : State) (m : Message) (r : Reply) : State :=
  { s with link := { s.link with tx := s.link.tx ++ replyBytes m r } }

/-- Take the request at the front of the receive queue, when its kind is one of those wanted and the controller takes
requests: the part is not held (R191) and no RESTART is taken (R188, R192). -/
def State.takeRequest (s : State) (wanted : Byte → Bool) : Option (Message × State) :=
  if !s.resetAsserted && s.link.restart.isNone then
    match s.link.rx with
    | m :: rest =>
      if wanted m.kind then some (m, { s with link := { s.link with rx := rest, tx := makeRoom s.link.tx } }) else none
    | [] => none
  else none

/-- Carry a request out: take it, let its owner act, place the reply (R180). Where the request at the front is of another
kind the event does not occur and nothing changes (log 1). -/
def State.carryOut (s : State) (kind : Byte) (owner : Message → State → Reply × State) :
    Host.Outcome State Fault Refusal :=
  match s.takeRequest fun b => decide (b = kind) with
  | none => .next s
  | some (m, s1) =>
    let answer := owner m s1
    .next (answer.2.placeReply m answer.1)

/-- The start-up check of every request but IDENTIFY, STATUS, DEFECTS and RESTART (R181). -/
def Works.startCheck (k : Works) : Option Status :=
  match k.startup with
  | .done => none
  | .failed => some .faulted
  | _ => some .starting

/-- A request whose owner changes only the works. -/
def onWorks (owner : Message → Works → Reply × Works) (m : Message) (s : State) : Reply × State :=
  let answer := owner m s.works
  (answer.1, { s with works := answer.2 })

end Sys2Proof.Machine
end

