-- ==== Sys2Proof/Machine/Operands.lean ====
section
/-! DEFINITION. The operand forms of the requests: targets, field codes and bodies (R180, R189, R190). -/

namespace Sys2Proof.Machine

/-! ### Kinds and targets (R180) -/

/-- The kind bytes of the table of R180. -/
def knownKinds : List Byte :=
  [0x01#8, 0x02#8, 0x03#8, 0x04#8, 0x05#8, 0x06#8, 0x07#8] ++
  [0x10#8, 0x11#8, 0x12#8, 0x13#8, 0x14#8, 0x15#8, 0x16#8] ++
  [0x20#8, 0x21#8, 0x22#8, 0x23#8, 0x24#8, 0x25#8, 0x26#8] ++
  [0x30#8, 0x31#8, 0x32#8, 0x33#8, 0x34#8, 0x35#8, 0x36#8]

/-- Whether a kind is one of the table of R180. -/
def isKnownKind (b : Byte) : Bool := knownKinds.contains b

/-- The forms of a target byte (R180). -/
inductive Target where
  | channel (c : Nat)
  | letter (i : Nat)
  | device
  | noForm
  deriving DecidableEq, Repr

/-- A channel 0x00..0x13, a letter record 0x20..0x3F, the device 0xFF (R180). -/
def targetOf (b : Byte) : Target :=
  if b.toNat < Config.channelCount then .channel b.toNat
  else if 0x20 ≤ b.toNat ∧ b.toNat < 0x40 then .letter (b.toNat - 0x20)
  else if b = 0xFF#8 then .device
  else .noForm

/-- The checks that a device request with no channel or letter target begins with: start-up where it applies, target, then
whether the body's length fits (R181, R189). -/
def deviceChecks (gated : Bool) (m : Message) (k : Works) (lengthFits : Nat → Bool) : Option Status :=
  match (if gated then k.startCheck else none) with
  | some st => some st
  | none =>
    if targetOf m.target ≠ .device then some .badTarget
    else if lengthFits m.body.length then none else some .badField

/-- A channel target after the start-up check: BAD_TARGET for anything but a channel 0..19. -/
def channelTarget (m : Message) (k : Works) : Except Status Nat :=
  match k.startCheck with
  | some st => .error st
  | none =>
    match targetOf m.target with
    | .channel c => .ok c
    | _ => .error .badTarget

/-- The same for a request whose rule checks no field: its body's length is checked after its target (R189). -/
def channelTargetSized (m : Message) (k : Works) (len : Nat) : Except Status Nat :=
  match channelTarget m k with
  | .error st => .error st
  | .ok c => if m.body.length = len then .ok c else .error .badField

/-! ### Codes (R189) -/

/-- Recording mode codes. -/
def recModeOf (v : Nat) : Option RecMode :=
  if v = 1 then some .insert else if v = 2 then some .overwrite else none

/-- Mark kind codes. -/
def markKindOf (v : Nat) : Option MarkKind :=
  if v = 1 then some .instructionMark else if v = 2 then some .sectionMark else if v = 3 then some .attentionMark
  else none

/-- The code of a mark kind. -/
def MarkKind.code : MarkKind → Nat
  | .instructionMark => 1
  | .sectionMark => 2
  | .attentionMark => 3

/-- The code of a channel kind. -/
def ChanKind.code : ChanKind → Nat
  | .noKind => 0
  | .dictation => 1
  | .transcription => 2

/-- The code of a channel state. -/
def ChanState.code : ChanState → Nat
  | .closed => 0
  | .ready => 1
  | .recording => 2
  | .draining => 3
  | .reviewing => 4
  | .stopped => 5
  | .playing => 6
  | .starved => 7
  | .ended => 8

/-- The code of a letter state. -/
def LetterState.code : LetterState → Nat
  | .free => 0
  | .attached => 1
  | .detached => 2
  | .sealing => 3

/-- The code of a start-up state. -/
def Startup.code : Startup → Nat
  | .loading => 0
  | .writing => 1
  | .checking => 2
  | .done => 3
  | .failed => 4

/-- The START_DONE detail of a restart cause (R194). -/
def Cause.code : Cause → Nat
  | .powerOn => 0
  | .resetLine => 1
  | .restartFull => 2
  | .restartKeep => 3

/-- The code of a monitor state. -/
def Lock.code : Lock → Nat
  | .absent => 0
  | .unlocked => 1
  | .locked => 2

/-- The code of a link rate. -/
def LinkRate.code : LinkRate → Nat
  | .mbaud1 => 1
  | .mbaud2 => 2
  | .mbaud4 => 4

/-- The code of a defect source. -/
def DefectSource.code : DefectSource → Nat
  | .factory => 1
  | .scan => 2
  | .runtime => 3

/-- Restart kinds (R192). -/
def restartKindOf (body : List Byte) : Option RestartKind :=
  match body with
  | [b] => if b = 1#8 then some .full else if b = 2#8 then some .keep else none
  | _ => none

/-! ### Bodies -/

/-- A timeslot byte: 0..31, or none (R169). -/
def timeslotOf (b : Byte) : Option (Option Nat) :=
  if b.toNat < Config.timeslotCount then some (some b.toNat) else if b = 0xFF#8 then some none else none

/-- The body of BIND. -/
def bindBody (body : List Byte) : Option Binding :=
  match body with
  | [r, t] =>
    match timeslotOf r, timeslotOf t with
    | some rx, some tx => some ⟨rx, tx⟩
    | _, _ => none
  | _ => none

/-- Targets of WIND (R85). -/
inductive WindTarget where
  | relative (n : Int)
  | absolute (p : Int)
  | toStart
  | toEnd
  | toMark (i : Int)
  deriving DecidableEq, Repr

/-- The body of WIND (R189). -/
def windBody (body : List Byte) : Option WindTarget :=
  match body with
  | [t, a, b, c, d] =>
    let v := leSigned [a, b, c, d]
    if t = 1#8 then some (.relative v) else if t = 2#8 then some (.absolute v) else if t = 3#8 then some .toStart
    else if t = 4#8 then some .toEnd else if t = 5#8 then some (.toMark v) else none
  | _ => none

/-- Stop options of REVIEW (R72). -/
inductive StopOption where
  | atEnd
  | atPosition (p : Nat)
  | nextMark
  deriving DecidableEq, Repr

/-- The body of REVIEW (R189). -/
def reviewBody (body : List Byte) : Option StopOption :=
  match body with
  | [o, a, b, c] =>
    if o = 1#8 then some .atEnd else if o = 2#8 then some (.atPosition (leValue [a, b, c]))
    else if o = 3#8 then some .nextMark else none
  | _ => none

/-- The body of RECORD (R189). -/
def recordBody (body : List Byte) : Option RecMode :=
  match body with
  | [b] => recModeOf b.toNat
  | _ => none

/-- The body of MARK (R189). -/
def markBody (body : List Byte) : Option (MarkKind × BitVec 16) :=
  match body with
  | [b, l, h] => (markKindOf b.toNat).map fun kind => (kind, h ++ l)
  | _ => none

/-- The body of PLAY: the backspace option (R189). -/
def playBody (body : List Byte) : Option Bool :=
  match body with
  | [b] => if b = 0#8 then some false else if b = 1#8 then some true else none
  | _ => none

/-! ### SET fields (R93, R189) -/

/-- The code of a setting. -/
def SettingValue.code : SettingValue → Nat
  | .width _ => 0x01
  | .quiet _ => 0x02
  | .hangover _ => 0x03
  | .onset _ => 0x04
  | .squeeze _ => 0x05
  | .window _ => 0x06
  | .priority _ => 0x07
  | .backspace _ => 0x08
  | .trim _ => 0x09
  | .feedLow _ => 0x0A
  | .haltOnInstruction _ => 0x0B

/-- Limit a number to a range, with whether it lay outside (R1). -/
def clampNat (lo hi v : Nat) : Nat × Bool := if v < lo then (lo, true) else if hi < v then (hi, true) else (v, false)

/-- A numeric setting limited to its range. -/
def clampedSetting (f : Nat → SettingValue) (lo hi v : Nat) : Option (SettingValue × Bool) :=
  some (f (clampNat lo hi v).1, (clampNat lo hi v).2)

/-- An enumerated setting of two names. -/
def namedSetting (zero one : SettingValue) (v : Nat) : Option (SettingValue × Bool) :=
  if v = 0 then some (zero, false) else if v = 1 then some (one, false) else none

/-- A SET field: its code and value give a setting in range and whether it was clamped; none refuses the SET (R92). -/
def settingOf (code v : Nat) : Option (SettingValue × Bool) :=
  match code with
  | 0x01 => namedSetting (.width .standard) (.width .compact) v
  | 0x02 => clampedSetting .quiet 0 32767 v
  | 0x03 => clampedSetting .hangover 0 50 v
  | 0x04 => clampedSetting .onset 1 3 v
  | 0x05 => clampedSetting .squeeze 5 250 v
  | 0x06 => clampedSetting .window 250 30000 v
  | 0x07 => namedSetting (.priority .normal) (.priority .urgent) v
  | 0x08 => clampedSetting .backspace 0 250 v
  | 0x09 => clampedSetting .trim 0 250 v
  | 0x0A => clampedSetting .feedLow 0 500 v
  | 0x0B => namedSetting (.haltOnInstruction false) (.haltOnInstruction true) v
  | _ => none

/-- The fields of a SET, three bytes each; a code given twice refuses the SET (R189). -/
def settingFields : List Byte → List Nat → Option (List SettingValue × Bool)
  | [], _ => some ([], false)
  | c :: l :: h :: rest, seen =>
    if seen.contains c.toNat then none
    else
      match settingOf c.toNat (leValue [l, h]), settingFields rest (c.toNat :: seen) with
      | some (sv, cl), some (svs, cls) => some (sv :: svs, cl || cls)
      | _, _ => none
  | _, _ => none

/-- The channels that a SET mask names, or none when a bit of 20..31 is set (R189). -/
def setMask (v : Nat) : Option (List Nat) :=
  if v < 2 ^ Config.channelCount then some (channelNumbers.filter fun c => v.testBit c) else none

/-- The body of SET: channels, settings, whether a value was clamped. -/
def setBodyOf (body : List Byte) : Option (List Nat × List SettingValue × Bool) :=
  match body with
  | a :: b :: c :: d :: rest =>
    match setMask (leValue [a, b, c, d]), settingFields rest [] with
    | some chans, some (svs, cl) => some (chans, svs, cl)
    | _, _ => none
  | _ => none

/-! ### CONFIGURE fields (R184, R189) -/

/-- What a CONFIGURE carries: each field at most once. -/
structure Configured where
  mask : Option (BitVec 32)
  tolerance : Option Nat
  slotMark : Option Nat
  entryMark : Option Nat
  deriving DecidableEq, Repr

/-- No field. -/
def Configured.nothing : Configured := { mask := none, tolerance := none, slotMark := none, entryMark := none }

/-- The fields of a CONFIGURE. The first number bounds the fields; each field's code fixes its size (R189). -/
def configFields : Nat → List Byte → Configured → Option Configured
  | _, [], acc => some acc
  | 0, _, _ => none
  | n + 1, c :: rest, acc =>
    if c = 0x01#8 then
      match rest with
      | a :: b :: d :: e :: more =>
        let mask := BitVec.ofNat 32 (leValue [a, b, d, e])
        if acc.mask.isSome || decide (mask &&& ~~~fullMask ≠ 0#32) then none
        else configFields n more { acc with mask := some mask }
      | _ => none
    else if c = 0x02#8 then
      match rest with
      | a :: more => if acc.tolerance.isSome then none else configFields n more { acc with tolerance := some a.toNat }
      | _ => none
    else if c = 0x03#8 then
      match rest with
      | a :: b :: more =>
        if acc.slotMark.isSome then none else configFields n more { acc with slotMark := some (leValue [a, b]) }
      | _ => none
    else if c = 0x04#8 then
      match rest with
      | a :: b :: more =>
        if acc.entryMark.isSome then none else configFields n more { acc with entryMark := some (leValue [a, b]) }
      | _ => none
    else none

/-- The body of CONFIGURE: at most four fields. -/
def configBody (body : List Byte) : Option Configured := configFields 4 body Configured.nothing

/-! ### FEED records (R147, R189, R190) -/

/-- A record as FEED carries it; a SPEECH record with the bytes of its frame record. -/
inductive FedRecord where
  | speech (pos : Nat) (bytes : List Byte)
  | pause (pos count : Nat)
  | lost (pos count : Nat) (damaged : Bool)
  | mark (pos : Nat) (kind : MarkKind) (label : BitVec 16)
  | endOf (finalLength : Nat)
  deriving DecidableEq, Repr

/-- A run count field: 1..250 (R148). -/
def runCount (b : Byte) : Option Nat := if 1 ≤ b.toNat ∧ b.toNat ≤ 250 then some b.toNat else none

/-- A SPEECH record's frame record: its size follows from the width flag of its header (R190). -/
def fedSpeech (pos : Nat) (rest : List Byte) : Option (FedRecord × List Byte) :=
  match rest with
  | h :: _ => (takeBytes (headerWidth h).recordBytes rest).map fun p => (.speech pos p.1, p.2)
  | [] => none

/-- What follows kind and position of a record (R189). -/
def fedBody (kind pos : Nat) (rest : List Byte) : Option (FedRecord × List Byte) :=
  match kind, rest with
  | 1, more => fedSpeech pos more
  | 2, n :: more => (runCount n).map fun k => (.pause pos k, more)
  | 3, n :: f :: more => (runCount n).map fun k => (.lost pos k (f.getLsbD 0), more)
  | 4, g :: l :: h :: more => (markKindOf g.toNat).map fun kd => (.mark pos kd (h ++ l), more)
  | 5, _ :: _ :: more => some (.endOf pos, more)
  | _, _ => none

/-- One record (R189). -/
def fedRecord : List Byte → Option (FedRecord × List Byte)
  | t :: a :: b :: c :: rest => fedBody t.toNat (leValue [a, b, c]) rest
  | _ => none

/-- The records that a FEED body declares; a body of another length is refused (R190). -/
def fedRecords : Nat → List Byte → Option (List FedRecord)
  | 0, [] => some []
  | 0, _ :: _ => none
  | n + 1, bytes =>
    match fedRecord bytes with
    | none => none
    | some (r, rest) => (fedRecords n rest).map (r :: ·)

/-- The position that a record carries (R148). -/
def FedRecord.pos : FedRecord → Nat
  | .speech p _ => p
  | .pause p _ => p
  | .lost p _ _ => p
  | .mark p _ _ => p
  | .endOf p => p

/-- By how much a record advances the expected position (R147). -/
def FedRecord.span : FedRecord → Nat
  | .speech _ _ => 1
  | .pause _ n => n
  | .lost _ n _ => n
  | .mark _ _ _ => 0
  | .endOf _ => 0

/-- Whether a record is END. -/
def FedRecord.isEnd : FedRecord → Bool
  | .endOf _ => true
  | _ => false

/-- The bytes of an undamaged SPEECH record, which takes a slot (R147): bits 7..6 of byte 0 written as 0 (R190). -/
def FedRecord.slotBytes : FedRecord → Option (List Byte)
  | .speech _ (h :: rest) => if headerDamaged h then none else some ((h &&& 0x3F#8) :: rest)
  | _ => none

/-- The body of FEED: 1 to 8 records, none ending beyond the largest position (R148, check 1). -/
def feedBody (body : List Byte) : Option (List FedRecord) :=
  match body with
  | n :: rest =>
    if 1 ≤ n.toNat ∧ n.toNat ≤ 8 then
      match fedRecords n.toNat rest with
      | some rs => if rs.all fun r => decide (r.pos + r.span ≤ Config.maxLength) then some rs else none
      | none => none
    else none
  | [] => none

end Sys2Proof.Machine
end

