-- ==== Sys2Proof/Machine/EditList.lean ====
section
/-! DEFINITION. The edit list (03_letters_and_the_edit_list.md, 04_marks_and_stop_points.md): positions, placement in both
modes, growth, sealing, marks. Lists are plain; positions are counted from the front (R38). -/

namespace Sys2Proof.Machine

/-! ### Positions (R38) -/

/-- An edit list cut at a position: the entries that end at or before it, where the rest starts, and the rest, whose first
entry holds the position. -/
structure Cut where
  before : List Entry
  start : Nat
  rest : List Entry
  deriving DecidableEq, Repr

/-- Cut entries that start at `s` at position `w`. -/
def cutAt (w : Nat) : Nat → List Entry → Cut
  | s, [] => ⟨[], s, []⟩
  | s, e :: es =>
    if s + e.count ≤ w then
      let c := cutAt w (s + e.count) es
      { c with before := e :: c.before }
    else ⟨[], s, e :: es⟩

/-- The edit list of a letter cut at a position. -/
def Letter.cut (l : Letter) (w : Nat) : Cut := cutAt w l.sealB l.edit

/-- Whether a mark of the letter's table stands at a position. -/
def Letter.markAt (l : Letter) (p : Nat) : Bool := l.marks.any fun m => decide (m.pos = p)

/-! ### Placement of a new entry (R41, R43) -/

/-- A placement worked out: the new list, how many free entries it needs, the slots it frees, whether the letter grows. -/
structure Plan where
  edit : List Entry
  need : Nat
  freed : List Nat
  longer : Bool
  deriving DecidableEq, Repr

/-- What is left of a run from a count: nothing when the count is 0. -/
def runPiece (id : Nat) (kind : RunKind) (n : Nat) : List Entry := if n = 0 then [] else [⟨id, .run kind n⟩]

/-- Overwrite mode: the new entry takes the place of position `w` (R41). `spare` numbers the piece a split makes. -/
def planOverwrite (l : Letter) (w : Nat) (new : Entry) (spare : Nat) : Plan :=
  let c := l.cut w
  match c.rest with
  | [] => ⟨c.before ++ [new], 1, [], true⟩
  | e :: post =>
    match e.body with
    | .speech held => ⟨c.before ++ new :: post, 0, held.toList, false⟩
    | .run kind n =>
      let front := w - c.start
      let back := c.start + n - 1 - w
      if front = 0 then
        ⟨c.before ++ new :: (runPiece e.id kind back ++ post), if back = 0 then 0 else 1, [], false⟩
      else
        ⟨c.before ++ runPiece e.id kind front ++ new :: (runPiece spare kind back ++ post),
          if back = 0 then 1 else 2, [], false⟩

/-- Insert mode: the new entry is put in at `w` (R43). -/
def planInsert (l : Letter) (w : Nat) (new : Entry) (spare : Nat) : Plan :=
  let c := l.cut w
  match c.rest with
  | [] => ⟨c.before ++ [new], 1, [], true⟩
  | e :: post =>
    match e.body with
    | .speech _ => ⟨c.before ++ new :: e :: post, 1, [], true⟩
    | .run kind n =>
      let front := w - c.start
      if front = 0 then ⟨c.before ++ new :: e :: post, 1, [], true⟩
      else ⟨c.before ++ runPiece e.id kind front ++ new :: (runPiece spare kind (n - front) ++ post), 2, [], true⟩

/-- The placement of a new entry in a recording mode (R40). -/
def planEntry (mode : RecMode) (l : Letter) (w : Nat) (new : Entry) (spare : Nat) : Plan :=
  match mode with
  | .insert => planInsert l w new spare
  | .overwrite => planOverwrite l w new spare

/-- Marks beyond `w` move one later when the letter grows in insert mode (R66). -/
def shiftMarks (w : Nat) (ms : List Mark) : List Mark :=
  ms.map fun m => if w < m.pos then { m with pos := m.pos + 1 } else m

/-- Marks after a placement or growth at `w`: only insert mode moves them (R66, R67). -/
def marksAfter (mode : RecMode) (w : Nat) (ms : List Mark) : List Mark :=
  match mode with
  | .insert => shiftMarks w ms
  | .overwrite => ms

/-! ### Growth (R42, R44) -/

/-- A growth step worked out: the new list, the entries it returns, the slots it frees, whether the letter grows. -/
structure Growth where
  edit : List Entry
  returned : Nat
  freed : List Nat
  longer : Bool
  deriving DecidableEq, Repr

/-- The run with a number one position longer. -/
def bumpRun (id : Nat) (es : List Entry) : List Entry :=
  es.map fun e =>
    match e.body with
    | .run kind n => if e.id = id then { e with body := .run kind (n + 1) } else e
    | .speech _ => e

/-- Overwrite mode: the growing run takes position `w` from the entry that starts there (R42). -/
def growOverwrite (l : Letter) (w id : Nat) : Growth :=
  let c := l.cut w
  match c.rest with
  | [] => ⟨bumpRun id c.before, 0, [], true⟩
  | e :: post =>
    match e.body with
    | .speech held => ⟨bumpRun id c.before ++ post, 1, held.toList, false⟩
    | .run kind n => ⟨bumpRun id c.before ++ (runPiece e.id kind (n - 1) ++ post), if n ≤ 1 then 1 else 0, [], false⟩

/-- A growth step in a recording mode: insert mode consumes nothing (R44). -/
def planGrowth (mode : RecMode) (l : Letter) (w id : Nat) : Growth :=
  match mode with
  | .insert => ⟨bumpRun id l.edit, 0, [], true⟩
  | .overwrite => growOverwrite l w id

/-- The growing run: the run of the edit list with the number held (2.1), with its kind and count. -/
def Letter.growingRun (l : Letter) (growing : Option Nat) : Option (RunKind × Nat) :=
  match growing with
  | none => none
  | some id =>
    match l.edit.find? fun e => decide (e.id = id) with
    | some ⟨_, .run kind n⟩ => some (kind, n)
    | _ => none

/-! ### Sealing (R48 to R50, R69) -/

/-- Where the entry starts that holds the cursor; at the length, the last entry counts (R49, condition 2). -/
def holderStart (cursor : Nat) : Nat → List Entry → Nat
  | s, [] => s
  | s, [_] => s
  | s, e :: es => if cursor < s + e.count then s else holderStart cursor (s + e.count) es

/-- Split entries that start at `s` into those that seal and those that stay: each ends at or before both bounds and is not
PENDING (R49). -/
def sealSplit (bound : Nat) : Nat → List Entry → List Entry × List Entry
  | _, [] => ([], [])
  | s, e :: es =>
    if decide (s + e.count ≤ bound) && !e.isPending then
      let r := sealSplit bound (s + e.count) es
      (e :: r.1, r.2)
    else ([], e :: es)

/-- Entries that start at `s` as sealed entries, each with the marks standing at its start in table order (R69). -/
def withMarks (ms : List Mark) : Nat → List Entry → List SealedEntry
  | _, [] => []
  | s, e :: es => ⟨e, ms.filter fun m => decide (m.pos = s)⟩ :: withMarks ms (s + e.count) es

/-- Move entries from the front of the edit list to the back of the sealed list with their marks; a mark at the new seal
boundary stays (R49, R69). -/
def Letter.sealEntries (l : Letter) (moved kept : List Entry) : Letter :=
  let boundary := l.sealB + spanOf moved
  { l with edit := kept, sealedList := l.sealedList ++ withMarks l.marks l.sealB moved, sealB := boundary,
           marks := l.marks.filter fun m => decide (boundary ≤ m.pos) }

/-- What sealing with a window moves (R49). -/
def Letter.sealable (l : Letter) (window : Nat) : List Entry × List Entry :=
  sealSplit (min (l.length - window) (holderStart l.cursor l.sealB l.edit)) l.sealB l.edit

/-- Apply sealing to letter `i` (R48): an ATTACHED letter, with the window of its channel. A growing run that is sealed ends
(R27), and SEAL_READY is raised when the sealed list was empty (R50). -/
def Works.applySealing (k : Works) (i : Nat) : Works :=
  let l := k.letter i
  match l.state, l.channel with
  | .attached, some c =>
    let split := l.sealable (k.chan c).settings.window
    if split.1.isEmpty then k
    else
      let k1 := k.modLetter i fun l => l.sealEntries split.1 split.2
      let k2 := k1.modChan c fun ch =>
        if split.1.any fun e => decide (ch.det.growing = some e.id) then
          { ch with det := { ch.det with growing := none } }
        else ch
      if l.sealedList.isEmpty then k2.raise .sealReady c i else k2
  | _, _ => k

/-- Apply sealing to the letter attached to channel `c`. -/
def Works.sealChan (k : Works) (c : Nat) : Works :=
  match (k.chan c).letter with
  | some i => k.applySealing i
  | none => k

/-! ### Marks (R64, R66, R68, R70) -/

/-- Put a mark after every mark at its position or before (R64). -/
def insertMark (m : Mark) : List Mark → List Mark
  | [] => [m]
  | f :: rest => if f.pos ≤ m.pos then f :: insertMark m rest else m :: f :: rest

/-- Whether a mark has a kind and stands at a position. -/
def Mark.isAt (m : Mark) (kind : MarkKind) (p : Nat) : Bool := decide (m.kind = kind) && decide (m.pos = p)

/-- Whether the table holds a mark of a kind at a position. -/
def Letter.hasMark (l : Letter) (kind : MarkKind) (p : Nat) : Bool := l.marks.any fun m => m.isAt kind p

/-- The table with a mark placed or relabelled (R64, steps 1 and 2). -/
def Letter.captureMark (l : Letter) (kind : MarkKind) (label : BitVec 16) (p : Nat) : List Mark :=
  if l.hasMark kind p then l.marks.map fun m => if m.isAt kind p then { m with label := label } else m
  else insertMark ⟨kind, label, p⟩ l.marks

/-- The index of the mark of a kind at a position. -/
def markIndex (kind : MarkKind) (p : Nat) (ms : List Mark) : Nat := (ms.findIdx? fun m => m.isAt kind p).getD 0

/-- The list with the run that holds `p` after its start split there, or none when no run does (R64, step 3). -/
def Letter.splitRun (l : Letter) (p spare : Nat) : Option (List Entry) :=
  let c := l.cut p
  match c.rest with
  | ⟨id, .run kind n⟩ :: post =>
    if c.start < p then
      some (c.before ++ ⟨id, .run kind (p - c.start)⟩ :: ⟨spare, .run kind (c.start + n - p)⟩ :: post)
    else none
  | _ => none

/-! ### Truncation (R58, R68) -/

/-- TRUNCATE at `c`: what stays of the edit list. A run that starts before `c` and ends after it is cut. -/
def Letter.truncated (l : Letter) (c : Nat) : List Entry :=
  let ct := l.cut c
  match ct.rest with
  | ⟨id, .run kind _⟩ :: _ => ct.before ++ runPiece id kind (c - ct.start)
  | _ => ct.before

/-- TRUNCATE at `c`: the entries removed, which start at or after it. -/
def Letter.cutAway (l : Letter) (c : Nat) : List Entry :=
  let ct := l.cut c
  match ct.rest with
  | [] => []
  | e :: post => if ct.start < c then post else e :: post

/-! ### Prepare point of a review (R88) -/

/-- The first position from `s` on that no run covers, entries starting at `s`. -/
def pastRuns : Nat → List Entry → Nat
  | s, [] => s
  | s, e :: es =>
    match e.body with
    | .run _ n => pastRuns (s + n) es
    | .speech _ => s

/-- The prepare point moved past the runs it stands in, up to the stop point. -/
def Letter.prepareFrom (l : Letter) (p stop : Nat) : Nat :=
  let c := l.cut p
  min stop (max p (pastRuns c.start c.rest))

/-- The entry that holds a position. -/
def Letter.entryAt (l : Letter) (p : Nat) : Option Entry :=
  if p < l.sealB then none else (l.cut p).rest.head?

end Sys2Proof.Machine
end

