-- ==== Sys2Proof/Machine/Detector.lean ====
section
/-! DEFINITION. The pause detector and the placing of items by a recording channel (02_pause_squeezing.md; R12, R13, R40 to
R47, R82, R110). -/

namespace Sys2Proof.Machine

/-- Change the detector of channel `c`. -/
def Works.modDet (k : Works) (c : Nat) (f : Detector → Detector) : Works :=
  k.modChan c fun ch => { ch with det := f ch.det }

/-! ### Ending a span (R47, R82) -/

/-- The end of a recording span: capture, modes and growing run are cleared, and the channel enters DRAINING or READY (R82,
steps 2 and 3). The filling buffer is discarded (step 1). The detector keeps phase and quiet count, as R18 says, where 2.1
says that outside RECORDING it holds its reset values: the model's choice (log 32). -/
def Channel.endSpan (ch : Channel) : Channel :=
  { ch with filling := [], captureStarted := false, recMode := none, pendingMode := none,
            det := { ch.det with growing := none }, state := if ch.capture.isEmpty then .ready else .draining }

/-- A frame squeezed out of letter `i`, or a pause or LOST item at the length limit (R26, R47). -/
def Works.countSqueezed (k : Works) (i : Nat) : Works :=
  k.modLetter i fun l => { l with squeezed := sat16 l.squeezed }

/-- The implicit STOP at LETTER_FULL. Held frames are released at the limit, where each is counted as squeezed (R47). -/
def Works.implicitStop (k : Works) (c i : Nat) : Works :=
  let held := (k.chan c).det.hold
  let k1 := held.foldl (fun acc _ => acc.countSqueezed i) k
  (k1.modDet c fun d => { d with hold := [], loud := 0 }).modChan c Channel.endSpan

/-- LETTER_FULL and the implicit STOP, if the span has not already ended (R47). -/
def Works.letterFull (k : Works) (c i : Nat) : Works := (k.raise .letterFull c i).implicitStop c i

/-- A frame or run dropped: it is counted, and the next speech frame does not continue it (R13, R28, R45, R91). -/
def Works.countDropped (k : Works) (c : Nat) : Works :=
  k.modChan c fun ch => { ch with dropped := sat16 ch.dropped, det := { ch.det with prevKept := false } }

/-! ### Placing (R40) -/

/-- The outcome of a placement: over the length limit, short of entries, or placed with the entry's number and whether the
letter grew. -/
inductive Placed where
  | overLimit
  | short
  | placed (k : Works) (id : Nat) (grew : Bool)

/-- A letter with a placement carried out at its cursor (R40, steps 2 to 4). -/
def Letter.withPlan (l : Letter) (mode : RecMode) (p : Plan) : Letter :=
  { l with edit := p.edit, cursor := l.cursor + 1, length := if p.longer then l.length + 1 else l.length,
           marks := marksAfter mode l.cursor l.marks }

/-- The pools after a placement: replaced records and slots return, then entries are taken, and the marks compare once
(R40, R128, R129). -/
def Works.afterPlan (k : Works) (p : Plan) : Works :=
  let k1 := { k with freeEntries := k.freeEntries - p.need, freePool := k.freePool ++ p.freed,
                     nextEntry := k.nextEntry + 2 }
  let k2 := if p.freed.isEmpty then k1 else k1.slotsFreed
  if p.need = 0 then k2.entriesTaken.entriesFreed else k2.entriesTaken

/-- Place a new entry at the write point of channel `c` in letter `i` (R40, R41, R43). -/
def Works.placeEntry (k : Works) (i : Nat) (mode : RecMode) (body : EntryBody) : Placed :=
  let l := k.letter i
  let p := planEntry mode l l.cursor ⟨k.nextEntry, body⟩ (k.nextEntry + 1)
  if p.longer && decide (Config.maxLength ≤ l.length) then .overLimit
  else if k.freeEntries < p.need then .short
  else .placed ((k.modLetter i fun l => l.withPlan mode p).afterPlan p) k.nextEntry p.longer

/-- After a placement or growth: LETTER_FULL when it brought the length to its limit, then sealing (R40, R47, R48). -/
def Works.afterPlacement (k : Works) (c i : Nat) (grew : Bool) : Works :=
  let k1 := if grew && decide ((k.letter i).length = Config.maxLength) then k.letterFull c i else k
  k1.applySealing i

/-- A letter with a growth step carried out at its cursor (R42, R44). -/
def Letter.withGrowth (l : Letter) (mode : RecMode) (g : Growth) : Letter :=
  { l with edit := g.edit, cursor := l.cursor + 1, length := if g.longer then l.length + 1 else l.length,
           marks := marksAfter mode l.cursor l.marks }

/-- A growth step of the growing run with number `id` (R25, R42, R44), or the length limit (R47). -/
def Works.growRun (k : Works) (c i : Nat) (mode : RecMode) (id : Nat) : Works :=
  let l := k.letter i
  let g := planGrowth mode l l.cursor id
  if g.longer && decide (Config.maxLength ≤ l.length) then (k.countSqueezed i).letterFull c i
  else ((k.modLetter i fun l => l.withGrowth mode g).giveBack g.returned g.freed).afterPlacement c i g.longer

/-- A new run of count 1 (R25, R28): without a free entry it is dropped. -/
def Works.newRun (k : Works) (c i : Nat) (mode : RecMode) (kind : RunKind) : Works :=
  let k1 := k.modDet c fun d => { d with growing := none }
  match k1.placeEntry i mode (.run kind 1) with
  | .overLimit => (k1.countSqueezed i).letterFull c i
  | .short => (k1.countDropped c).raiseCount .poolEmpty c
  | .placed k2 id grew => (k2.modDet c fun d => { d with growing := some id }).afterPlacement c i grew

/-- A pause item or LOST item of letter `i` in a recording mode: growth, squeeze or new run (R25). -/
def Works.runItem (k : Works) (c i : Nat) (mode : RecMode) (kind : RunKind) : Works :=
  let ch := k.chan c
  let l := k.letter i
  match ch.det.growing, l.growingRun ch.det.growing with
  | some id, some (held, n) =>
    if decide (held = kind) && !l.markAt l.cursor then
      if n < ch.settings.squeeze then k.growRun c i mode id else k.countSqueezed i
    else k.newRun c i mode kind
  | _, _ => k.newRun c i mode kind

/-- Decide a pause item or LOST item (R12, R25). An item decided after the implicit STOP of the same boundary comes under the
second case of R47 (log 16). -/
def Works.decideRun (k : Works) (c : Nat) (kind : RunKind) : Works :=
  let ch := k.chan c
  match ch.letter, ch.recMode with
  | some i, some mode => (k.modDet c fun d => { d with prevKept := false }).runItem c i mode kind
  | some i, none => k.countSqueezed i
  | none, _ => k

/-- A speech frame that finds the capture pair full is dropped at overrun and becomes a LOST item (R110). -/
def Works.overrunFrame (k : Works) (c : Nat) : Works :=
  ((k.modChan c fun ch => { ch with overrun := sat16 ch.overrun }).raiseCount .overrun c).decideRun c .lost

/-- A kept speech frame enters the capture pair with its width, continues flag and entry (R2, R13, R81). -/
def Channel.keepFrame (ch : Channel) (f : Frame) (id : Nat) : Channel :=
  { ch with capture := ch.capture ++ [⟨f, ch.settings.width, ch.det.prevKept, id, false⟩],
            det := { ch.det with prevKept := true } }

/-- A speech frame that found a free buffer is placed as a PENDING entry, or dropped (R40, R45, R47). -/
def Works.speechItem (k : Works) (c i : Nat) (mode : RecMode) (f : Frame) : Works :=
  let k1 := k.modDet c fun d => { d with growing := none }
  match k1.placeEntry i mode (.speech none) with
  | .overLimit => (k1.countDropped c).letterFull c i
  | .short => (k1.countDropped c).raiseCount .poolEmpty c
  | .placed k2 id grew => (k2.modChan c fun ch => ch.keepFrame f id).afterPlacement c i grew

/-- Decide a speech frame (R20, R22, R110). -/
def Works.decideSpeech (k : Works) (c : Nat) (f : Frame) : Works :=
  let ch := k.chan c
  match ch.letter, ch.recMode with
  | some i, some mode => if 2 ≤ ch.capture.length then k.overrunFrame c else k.speechItem c i mode f
  | some _, none => k.countDropped c
  | none, _ => k

/-! ### The detector (R18 to R29) -/

/-- Release the held frames as pause, oldest first (R23). -/
def Works.releaseHeld (k : Works) (c : Nat) : Works :=
  let held := (k.chan c).det.hold
  let k1 := k.modDet c fun d => { d with hold := [] }
  let k2 := held.foldl (fun acc _ => acc.decideRun c .pause) k1
  k2.modDet c fun d => { d with loud := 0 }

/-- The peak of a frame: the largest magnitude of its samples (R19). -/
def framePeak (f : Frame) : Nat := f.foldl (fun acc x => max acc x.toInt.natAbs) 0

/-- A frame is quiet when its peak is below the threshold (R19). -/
def isQuiet (threshold : Nat) (f : Frame) : Bool := decide (framePeak f < threshold)

/-- A frame decided in SPEECH (R20). -/
def Works.frameInSpeech (k : Works) (c : Nat) (f : Frame) : Works :=
  let ch := k.chan c
  if isQuiet ch.settings.quiet f then
    if ch.det.quiet < ch.settings.hangover then
      (k.modDet c fun d => { d with quiet := d.quiet + 1 }).decideSpeech c f
    else
      (k.modDet c fun d => { d with phase := .pause, quiet := 0, loud := 0, hold := [], growing := none }).decideRun c
        .pause
  else (k.modDet c fun d => { d with quiet := 0 }).decideSpeech c f

/-- A frame decided in PAUSE (R21): quiet, held, or completing the onset (R22). -/
def Works.frameInPause (k : Works) (c : Nat) (f : Frame) : Works :=
  let ch := k.chan c
  if isQuiet ch.settings.quiet f then (k.releaseHeld c).decideRun c .pause
  else if ch.det.loud + 1 < ch.settings.onset then
    k.modDet c fun d => { d with loud := d.loud + 1, hold := d.hold ++ [f] }
  else
    let group := ch.det.hold ++ [f]
    let k1 := k.modDet c fun d => { d with phase := .speech, quiet := 0, loud := 0, hold := [] }
    group.foldl (fun acc g => acc.decideSpeech c g) k1

/-- A frame completed while the monitor is not LOCKED (R29). -/
def Works.lostFrame (k : Works) (c : Nat) : Works :=
  ((k.releaseHeld c).decideRun c .lost).modDet c fun d => { d with phase := .speech, quiet := 0, loud := 0 }

/-- Decide the completed frame of a RECORDING channel (R19 to R29). -/
def Works.decideFrame (k : Works) (c : Nat) (locked : Bool) (f : Frame) : Works :=
  if locked then
    match (k.chan c).det.phase with
    | .speech => k.frameInSpeech c f
    | .pause => k.frameInPause c f
  else k.lostFrame c

/-! ### Settings at their load (R24, R94, R95, R162) -/

/-- Load one value into the settings in force. -/
def Settings.load (s : Settings) : SettingValue → Settings
  | .width v => { s with width := v }
  | .quiet v => { s with quiet := v }
  | .hangover v => { s with hangover := v }
  | .onset v => { s with onset := v }
  | .squeeze v => { s with squeeze := v }
  | .window v => { s with window := v }
  | .priority v => { s with priority := v }
  | .backspace v => { s with backspace := v }
  | .trim v => { s with trim := v }
  | .feedLow v => { s with feedLow := v }
  | .haltOnInstruction v => { s with haltOnInstruction := v }

/-- Stage one value, replacing what is staged for its field (R94). -/
def Staged.put (s : Staged) : SettingValue → Staged
  | .width v => { s with width := some v }
  | .quiet v => { s with quiet := some v }
  | .hangover v => { s with hangover := some v }
  | .onset v => { s with onset := some v }
  | .squeeze v => { s with squeeze := some v }
  | .window v => { s with window := some v }
  | .priority v => { s with priority := some v }
  | .backspace v => { s with backspace := some v }
  | .trim v => { s with trim := some v }
  | .feedLow v => { s with feedLow := some v }
  | .haltOnInstruction v => { s with haltOnInstruction := some v }

/-- Nothing staged for a value's field any more (R94). -/
def Staged.drop (s : Staged) : SettingValue → Staged
  | .width _ => { s with width := none }
  | .quiet _ => { s with quiet := none }
  | .hangover _ => { s with hangover := none }
  | .onset _ => { s with onset := none }
  | .squeeze _ => { s with squeeze := none }
  | .window _ => { s with window := none }
  | .priority _ => { s with priority := none }
  | .backspace _ => { s with backspace := none }
  | .trim _ => { s with trim := none }
  | .feedLow _ => { s with feedLow := none }
  | .haltOnInstruction _ => { s with haltOnInstruction := none }

/-- The settings with everything staged loaded (R94). -/
def Settings.loadStaged (s : Settings) (t : Staged) : Settings :=
  { width := t.width.getD s.width, quiet := t.quiet.getD s.quiet, hangover := t.hangover.getD s.hangover,
    onset := t.onset.getD s.onset, squeeze := t.squeeze.getD s.squeeze, window := t.window.getD s.window,
    priority := t.priority.getD s.priority, backspace := t.backspace.getD s.backspace, trim := t.trim.getD s.trim,
    feedLow := t.feedLow.getD s.feedLow, haltOnInstruction := t.haltOnInstruction.getD s.haltOnInstruction }

/-- The settings in force after the staged ones load, and nothing staged. -/
def Channel.loadStaged (ch : Channel) : Channel :=
  { ch with settings := ch.settings.loadStaged ch.staged, staged := Staged.empty }

/-- Whether the values staged include a window that loads for an attached letter (R95). -/
def Works.sealIfWindow (k : Works) (c : Nat) (loaded : Bool) : Works := if loaded then k.sealChan c else k

/-! ### The boundary of a RECORDING channel (R80) -/

/-- The pending mode becomes the recording mode (R79). -/
def Channel.takePendingMode (ch : Channel) : Channel :=
  match ch.pendingMode with
  | some m => { ch with recMode := some m, pendingMode := none }
  | none => ch

/-- Step 1 of R80: staged settings and a pending mode load; a lowered onset count then releases the held frames (R24). Where
a new window loads with it, sealing comes before the release: the model's choice (log 35). -/
def Works.recordingLoad (k : Works) (c : Nat) : Works :=
  let old := k.chan c
  let k1 := k.modChan c fun ch => ch.loadStaged.takePendingMode
  let k2 := k1.sealIfWindow c old.staged.window.isSome
  if (k2.chan c).settings.onset < old.settings.onset then k2.releaseHeld c else k2

/-- Capture starts and a recording span begins (R12, R18, R80). -/
def Channel.startCapture (ch : Channel) : Channel :=
  { ch with captureStarted := true, filling := [], det := Detector.start }

/-- The frame boundary of a RECORDING channel (R80). Where the release of step 1 ended the span, the frame has been discarded
with the filling buffer (R47, log 16). -/
def Works.recordingBoundary (k : Works) (c : Nat) (locked : Bool) : Works :=
  let k1 := k.recordingLoad c
  let ch := k1.chan c
  if ch.state ≠ .recording then k1
  else if ch.captureStarted then
    (k1.modChan c fun ch => { ch with filling := [] }).decideFrame c locked ch.filling
  else k1.modChan c Channel.startCapture

end Sys2Proof.Machine
end

