-- ==== Sys2Proof/Machine/Feed.lean ====
section
/-! DEFINITION. The feed queue (09_transcription_playback.md): records, skipped positions, the retained tail, the prepare
point. -/

namespace Sys2Proof.Machine

/-- Positions a record holds (R147). -/
def FeedRec.count (r : FeedRec) : Nat :=
  match r.body with
  | .speech _ => 1
  | .pause n => n
  | .lost n _ => n
  | .mark _ _ _ => 0
  | .endOf => 0

/-- Where a record ends (R147). -/
def FeedRec.stop (r : FeedRec) : Nat := r.pos + r.count

/-- Whether a record holds a position (R147). -/
def FeedRec.holds (r : FeedRec) (p : Nat) : Bool := decide (r.pos ≤ p) && decide (p < r.stop)

/-- The slot a record holds. -/
def FeedRec.slot (r : FeedRec) : Option Nat :=
  match r.body with
  | .speech s => some s
  | _ => none

/-- Whether a record is a SPEECH record. -/
def FeedRec.isSpeech (r : FeedRec) : Bool := r.slot.isSome

/-- Whether a record is the END record. -/
def FeedRec.isEnd (r : FeedRec) : Bool :=
  match r.body with
  | .endOf => true
  | _ => false

/-- Whether a record is a LOST record marked damaged (R142). -/
def FeedRec.isDamaged (r : FeedRec) : Bool :=
  match r.body with
  | .lost _ d => d
  | _ => false

/-- The record of a queue that holds a position. -/
def recordAt (q : List FeedRec) (p : Nat) : Option FeedRec := q.find? fun r => r.holds p

/-- The slots that records hold, in their order. -/
def feedSlotsOf (q : List FeedRec) : List Nat := q.filterMap FeedRec.slot

/-- The position of the first record, or the expected position of an empty queue (R142). -/
def Channel.retainedStart (ch : Channel) : Option Nat :=
  match ch.feed with
  | r :: _ => some r.pos
  | [] => ch.expected

/-- The unplayed positions, without meaning while the expected position is absent (R142). -/
def Channel.unplayed (ch : Channel) : Option Nat :=
  match ch.expected, ch.playPoint with
  | some x, some p => some (x - p)
  | _, _ => none

/-- A position skipped by the trim is left for the end of its PAUSE record (R150, R152). -/
def skipFrom (q : List FeedRec) (trim p : Nat) : Nat :=
  match recordAt q p with
  | some r =>
    match r.body with
    | .pause _ => if 0 < trim ∧ trim ≤ p - r.pos then r.stop else p
    | _ => p
  | none => p

/-- Where the positions of a record that the trim does not skip end (R150). -/
def FeedRec.playedStop (trim : Nat) (r : FeedRec) : Nat :=
  match r.body with
  | .pause _ => if trim = 0 then r.stop else min r.stop (r.pos + trim)
  | _ => r.stop

/-- How many positions are output from position `p` on before position `q` is (R160): skipped positions are not counted. -/
def outputsBefore (queue : List FeedRec) (trim p q : Nat) : Nat :=
  (queue.map fun r => min (r.playedStop trim) q - max r.pos p).sum

/-- The prepare point from position `p` on: the next SPEECH record, or the expected position (R160). -/
def feedPrepare (queue : List FeedRec) (p expected : Nat) : Nat :=
  match queue.find? fun r => r.isSpeech && decide (p ≤ r.pos) with
  | some r => r.pos
  | none => expected

/-- Move a channel's prepare point, where it is present, past what needs no decoding (R160). -/
def Channel.prepareFeed (ch : Channel) : Channel :=
  match ch.prepPoint, ch.expected with
  | some p, some x => { ch with prepPoint := some (feedPrepare ch.feed p x) }
  | _, _ => ch

/-- Whether a front record is freed with the play point minus B given (R156): never END. -/
def FeedRec.behind (r : FeedRec) (edge : Nat) : Bool :=
  match r.body with
  | .endOf => false
  | .mark _ _ _ => decide (r.pos < edge)
  | _ => decide (r.stop ≤ edge)

/-- Free the retained tail of channel `c` (R156). -/
def Works.freeTail (k : Works) (c : Nat) : Works :=
  let ch := k.chan c
  match ch.playPoint with
  | none => k
  | some p =>
    let edge := p - ch.settings.backspace
    let freed := ch.feed.takeWhile fun r => r.behind edge
    let k1 := k.modChan c fun ch => { ch with feed := ch.feed.dropWhile fun r => r.behind edge }
    k1.giveBack freed.length (feedSlotsOf freed)

/-- Marks at or above `low` and below `high` are armed again (R157, R159). -/
def rearm (low high : Nat) (q : List FeedRec) : List FeedRec :=
  q.map fun r =>
    match r.body with
    | .mark kind label _ => if low ≤ r.pos ∧ r.pos < high then { r with body := .mark kind label true } else r
    | _ => r

/-- The comparison with the feed low mark after an event that may have lowered the unplayed positions (R161). -/
def Works.compareFeedLow (k : Works) (c : Nat) (before : Option Nat) : Works :=
  let ch := k.chan c
  match before, ch.unplayed with
  | some b, some n =>
    if !ch.endFed && decide (ch.settings.feedLow ≤ b) && decide (n < ch.settings.feedLow) then k.raiseCount .feedLow c
    else k
  | _, _ => k

/-- The feed queue with the record of an entry number become a LOST record of count 1 marked damaged (R109, R160). -/
def loseRecord (id : Nat) (q : List FeedRec) : List FeedRec :=
  q.map fun r => if r.id = id then { r with body := .lost 1 true } else r

/-- Load one setting at once into channel `c` (R94, R95, R162). -/
def Works.loadSetting (k : Works) (c : Nat) (v : SettingValue) : Works :=
  let k1 := k.modChan c fun ch => { ch with settings := ch.settings.load v, staged := ch.staged.drop v }
  match v with
  | .window _ => k1.sealChan c
  | .backspace _ => k1.freeTail c
  | .trim _ => k1.modChan c Channel.prepareFeed
  | _ => k1

/-- Staged settings of a channel that is not RECORDING load at a frame boundary (R94, R95, R162). -/
def Works.loadAtBoundary (k : Works) (c : Nat) : Works :=
  let t := (k.chan c).staged
  let k1 := k.modChan c Channel.loadStaged
  let k2 := k1.sealIfWindow c t.window.isSome
  let k3 := if t.backspace.isSome then k2.freeTail c else k2
  if t.trim.isSome then k3.modChan c Channel.prepareFeed else k3

end Sys2Proof.Machine
end

