-- ==== Sys2Proof/Machine/Scheduler.lean ====
section
/-! DEFINITION. The coder scheduler (06_coder_scheduling.md): who asks, who is granted, the job record, completions. -/

namespace Sys2Proof.Machine

/-! ### Asking (R98, R99, R160) -/

/-- The channel of a job. -/
def Job.chan : Job → Nat
  | .encode c _ _ _ _ => c
  | .decode c _ _ _ _ => c

/-- Whether channel `c` has the job in service. -/
def Works.inService (k : Works) (c : Nat) : Bool := k.job.any fun j => decide (j.chan = c)

/-- The side of an EMPTY output buffer (R99, condition 2). -/
def Channel.emptySide (ch : Channel) : Option Side :=
  if ch.outX = .empty then some .x else if ch.outY = .empty then some .y else none

/-- A RECORDING or DRAINING channel asks to encode while a frame is WAITING (R98). -/
def Channel.asksEncode (ch : Channel) : Bool := ch.capture.any fun w => !w.inService

/-- A REVIEWING channel asks to decode the entry at its prepare point (R99, conditions 2 to 4): that entry. -/
def Works.reviewTarget (k : Works) (ch : Channel) : Option Entry :=
  match ch.emptySide, ch.letter, ch.playPoint, ch.prepPoint, ch.stopPoint with
  | some _, some i, some p, some q, some stop =>
    if q < stop ∧ q ≤ p + 1 then
      match (k.letter i).entryAt q with
      | some e => if e.slot.isSome then some e else none
      | none => none
    else none
  | _, _, _, _, _ => none

/-- A PLAYING or STARVED channel asks to decode the record at its prepare point (R160): that record. -/
def Channel.feedTarget (ch : Channel) : Option FeedRec :=
  match ch.emptySide, ch.playPoint, ch.prepPoint, ch.expected with
  | some _, some p, some q, some x =>
    match recordAt ch.feed q with
    | some r =>
      if q < x ∧ r.isSpeech ∧ outputsBefore ch.feed ch.settings.trim p r.pos ≤ 1 then some r else none
    | none => none
  | _, _, _, _ => none

/-- Whether a channel is in the request set (R97 to R99, R160). -/
def Works.asks (k : Works) (c : Nat) : Bool :=
  let ch := k.chan c
  !k.inService c &&
    match ch.state with
    | .recording => ch.asksEncode
    | .draining => ch.asksEncode
    | .reviewing => (k.reviewTarget ch).isSome
    | .playing => ch.feedTarget.isSome
    | .starved => ch.feedTarget.isSome
    | _ => false

/-! ### Grants (R100 to R102) -/

/-- The channels from the rotation pointer upward and round (R101). -/
def rotation (pointer : Nat) : List Nat :=
  channelNumbers.map fun i => (pointer + i) % Config.channelCount

/-- The channel that the next grant goes to: the lowest URGENT one, else the first in rotation (R101). -/
def Works.chosen (k : Works) : Option Nat :=
  match channelNumbers.find? fun c => k.asks c && decide ((k.chan c).settings.priority = .urgent) with
  | some c => some c
  | none => (rotation k.pointer).find? k.asks

/-- The oldest WAITING frame becomes IN SERVICE (R81). -/
def serveOldest : List WaitFrame → List WaitFrame
  | [] => []
  | w :: rest => if w.inService then w :: serveOldest rest else { w with inService := true } :: rest

/-- The job and the capture pair of an ENCODE grant (R15, R102). -/
def Works.grantEncode (k : Works) (c : Nat) : Works :=
  let ch := k.chan c
  match ch.capture.find? fun w => !w.inService with
  | none => k
  | some w =>
    let base := if w.continues then ch.carry else 0#16
    { k.modChan c fun ch => { ch with capture := serveOldest ch.capture } with
      job := some (.encode c (ch.letter.getD 0) w.entry w.width base) }

/-- A channel with the buffer of a side replaced. -/
def Channel.setSide (ch : Channel) (side : Side) (b : OutBuf) : Channel :=
  match side with
  | .x => { ch with outX := b }
  | .y => { ch with outY := b }

/-- The buffer of a side. -/
def Channel.getSide (ch : Channel) (side : Side) : OutBuf :=
  match side with
  | .x => ch.outX
  | .y => ch.outY

/-- The job, the buffer and the prepare point of a DECODE grant for a review (R88, R102). -/
def Works.grantReview (k : Works) (c : Nat) : Works :=
  let ch := k.chan c
  match k.reviewTarget ch, ch.emptySide, ch.prepPoint, ch.stopPoint, ch.letter with
  | some e, some side, some q, some stop, some i =>
    { k.modChan c fun ch =>
        { ch.setSide side (.awaiting q) with prepPoint := some ((k.letter i).prepareFrom (q + 1) stop) } with
      job := some (.decode c (.letter i) e.id side ch.generation) }
  | _, _, _, _, _ => k

/-- The job, the buffer and the prepare point of a DECODE grant for a feed queue (R102, R160). -/
def Works.grantFeed (k : Works) (c : Nat) : Works :=
  let ch := k.chan c
  match ch.feedTarget, ch.emptySide with
  | some r, some side =>
    { k.modChan c fun ch => { ch.setSide side (.awaiting r.pos) with prepPoint := some (r.pos + 1) }.prepareFeed with
      job := some (.decode c .feedQueue r.id side ch.generation) }
  | _, _ => k

/-- Grant the coder to channel `c`; a NORMAL grant moves the rotation pointer (R101, R102). -/
def Works.grantTo (k : Works) (c : Nat) : Works :=
  let ch := k.chan c
  let k1 := if ch.settings.priority = .urgent then k else { k with pointer := (c + 1) % Config.channelCount }
  match ch.state with
  | .recording => k1.grantEncode c
  | .draining => k1.grantEncode c
  | .reviewing => k1.grantReview c
  | _ => k1.grantFeed c

/-- A grant is made when the coder is idle and the request set is not empty (R100). -/
def Works.grantIfIdle (k : Works) : Works :=
  match k.job with
  | some _ => k
  | none =>
    match k.chosen with
    | some c => k.grantTo c
    | none => k

/-! ### ENCODE completion (R104 to R106) -/

/-- The entry of a completed ENCODE job takes a slot from the head of the free pool and becomes CODED, or a LOST run of
count 1 when the pool is empty (R104, R105): the works and the slot taken. -/
def Works.codeEntry (k : Works) (c i entry : Nat) : Works × Option Nat :=
  match k.freePool with
  | slot :: rest =>
    let k1 := { k with freePool := rest }.modLetter i fun l => { l with edit := setBody entry (.speech (some slot)) l.edit }
    (k1.slotsTaken, some slot)
  | [] =>
    let k1 := k.modLetter i fun l => { l with edit := setBody entry (.run .lost 1) l.edit }
    (k1.raiseCount .poolEmpty c, none)

/-- A DRAINING channel whose capture pair is empty enters READY, and DRAINED is raised with the letter's cursor (R83,
R185). -/
def Works.drainCheck (k : Works) (c i : Nat) : Works :=
  let ch := k.chan c
  if ch.state = .draining ∧ ch.capture.isEmpty then
    (k.modChan c fun ch => { ch with state := .ready }).raise .drained c (k.letter i).cursor
  else k

/-- What an ENCODE completion does at the works, given the carry it leaves (R104 to R106). -/
def Works.encodeDone (k : Works) (c i entry : Nat) (carry : Sample) : Works × Option Nat :=
  let coded := k.codeEntry c i entry
  let k1 := { coded.1 with job := none }.modChan c fun ch =>
    { ch with carry := carry, capture := ch.capture.filter fun w => !w.inService }
  (((k1.applySealing i).drainCheck c i).grantIfIdle, coded.2)

/-! ### DECODE completion (R107 to R109) -/

/-- A completion that touches nothing but the coder (R107). -/
def Works.decodeStale (k : Works) : Works := { k with job := none }.grantIfIdle

/-- The slot that a DECODE job's entry holds as it stands now (R102, R108). -/
def Works.jobSlot (k : Works) (c : Nat) (source : JobSource) (entry : Nat) : Option Nat :=
  match source with
  | .letter i =>
    match (k.letter i).edit.find? fun e => decide (e.id = entry) with
    | some e => e.slot
    | none => none
  | .feedQueue =>
    match (k.chan c).feed.find? fun r => decide (r.id = entry) with
    | some r => r.slot
    | none => none

/-- The job's buffer becomes FILLED for the position it awaits (R88). -/
def Channel.fillSide (ch : Channel) (side : Side) (f : Frame) : Channel :=
  match ch.getSide side with
  | .awaiting p => ch.setSide side (.filled p f)
  | _ => ch

/-- A frame of zeros. -/
def zeroFrame : Frame := List.replicate Config.frameSamples 0#16

/-- A completion whose read passed (R108). -/
def Works.decodePassed (k : Works) (c : Nat) (side : Side) (f : Frame) : Works :=
  ({ k with job := none }.modChan c fun ch => ch.fillSide side f).grantIfIdle

/-- The entry or record of a slot whose read failed becomes LOST in its place (R109, R160). -/
def Works.loseEntry (k : Works) (c : Nat) (source : JobSource) (entry : Nat) : Works :=
  match source with
  | .letter i => (k.modLetter i fun l => { l with edit := setBody entry (.run .lost 1) l.edit }).applySealing i
  | .feedQueue => k.modChan c fun ch => { ch with feed := loseRecord entry ch.feed }

/-- A completion whose read failed (R109, R119, R120). -/
def Works.decodeFailed (k : Works) (c : Nat) (source : JobSource) (entry : Nat) (side : Side) (slot : Nat) : Works :=
  let k1 := { k with job := none }.modChan c fun ch => ch.fillSide side zeroFrame
  ((k1.loseEntry c source entry).retireAtRun slot).grantIfIdle

end Sys2Proof.Machine
end

