-- ==== Sys2Proof/Machine/Playback.lean ====
section
/-! DEFINITION. What channels do at a frame boundary (R89, R94, R152 to R156), and the start and end of a review (R73, R87). -/

namespace Sys2Proof.Machine

/-! ### Reviews -/

/-- A channel without the positions of a review. -/
def Channel.clearReview (ch : Channel) : Channel :=
  { ch with playPoint := none, prepPoint := none, stopPoint := none, outputBegun := false }

/-- An output buffer once a SENDING frame has ended (R88). -/
def OutBuf.afterSending (b : OutBuf) : OutBuf :=
  match b with
  | .sending _ => .empty
  | _ => b

/-- A channel whose SENDING buffer becomes EMPTY (R88). -/
def Channel.endSending (ch : Channel) : Channel :=
  { ch with outX := ch.outX.afterSending, outY := ch.outY.afterSending }

/-- A buffer at the start of a review: kept while SENDING, otherwise EMPTY (R87). -/
def OutBuf.keepSending (b : OutBuf) : OutBuf :=
  match b with
  | .sending f => .sending f
  | _ => .empty

/-- Enter REVIEWING with a stop point beyond the cursor (R87, R88). -/
def Works.enterReview (k : Works) (c i stop : Nat) : Works :=
  let l := k.letter i
  k.modChan c fun ch =>
    { ch with state := .reviewing, playPoint := some l.cursor, prepPoint := some (l.prepareFrom l.cursor stop),
              stopPoint := some stop, outputBegun := false, outX := ch.outX.keepSending, outY := ch.outY.keepSending }

/-- End a review at its play point (R87): the cursor is set there, output is cut off, and the channel is READY. Sealing is
left to the request that ends it. -/
def Works.endReview (k : Works) (c i : Nat) : Works :=
  let p := (k.chan c).playPoint
  let k1 := k.modLetter i fun l => { l with cursor := p.getD l.cursor }
  k1.modChan c fun ch => { ch.cutOff.clearReview with state := .ready }

/-- The review has reached its stop point (R73). -/
def Works.reachStop (k : Works) (c i stop : Nat) : Works :=
  let k1 := k.modLetter i fun l => { l with cursor := stop }
  let k2 := k1.modChan c fun ch => { ch.clearReview with state := .ready }
  (k2.raise .stopReached c stop).applySealing i

/-- The side of a buffer FILLED for a position (R89). -/
def Channel.filledSide (ch : Channel) (p : Nat) : Option (Side × Frame) :=
  match ch.outX, ch.outY with
  | .filled q f, other =>
    if q = p then some (.x, f)
    else
      match other with
      | .filled r g => if r = p then some (.y, g) else none
      | _ => none
  | _, .filled r g => if r = p then some (.y, g) else none
  | _, _ => none

/-- The Filled case: the buffer becomes SENDING and the play point advances (R89, R152). -/
def Channel.sendFilled (ch : Channel) (side : Side) (f : Frame) (p : Nat) : Channel :=
  { ch.setSide side (.sending f) with output := some f, playPoint := some (p + 1), outputBegun := true }

/-- The Run case: zeros go out and the play point advances (R32, R89, R152). -/
def Channel.sendZeros (ch : Channel) (p : Nat) : Channel :=
  { ch with output := some zeroFrame, playPoint := some (p + 1), outputBegun := true }

/-- The Stall case: zeros go out; after output has begun the stall counts as late (R89, R152). -/
def Works.stall (k : Works) (c : Nat) : Works :=
  let begun := (k.chan c).outputBegun
  let k1 := k.modChan c fun ch =>
    { ch with output := some zeroFrame, late := if begun then sat16 ch.late else ch.late }
  if begun then k1.raiseCount .late c else k1

/-- Step 3 of R89 at play point `p` of letter `i`. -/
def Works.reviewPosition (k : Works) (c i p : Nat) : Works :=
  match (k.chan c).filledSide p with
  | some (side, f) => k.modChan c fun ch => ch.sendFilled side f p
  | none =>
    match (k.letter i).entryAt p with
    | some ⟨_, .run _ _⟩ => k.modChan c fun ch => ch.sendZeros p
    | _ => k.stall c

/-- The frame boundary of a REVIEWING channel (R89). -/
def Works.reviewBoundary (k : Works) (c : Nat) : Works :=
  let k1 := (k.loadAtBoundary c).modChan c Channel.endSending
  match (k1.chan c).letter, (k1.chan c).playPoint with
  | some i, some p =>
    let k2 := k1.reviewPosition c i p
    match (k2.chan c).playPoint, (k2.chan c).stopPoint with
    | some q, some stop => if q = stop then k2.reachStop c i stop else k2
    | _, _ => k2
  | _, _ => k1

/-! ### Transcription (R152 to R156) -/

/-- The armed marks at a position, in queue order. -/
def armedAt (q : List FeedRec) (p : Nat) : List (MarkKind × BitVec 16) :=
  q.filterMap fun r =>
    match r.body with
    | .mark kind label true => if r.pos = p then some (kind, label) else none
    | _ => none

/-- The marks at a position are reached: no longer armed (R153). -/
def disarmAt (q : List FeedRec) (p : Nat) : List FeedRec :=
  q.map fun r =>
    match r.body with
    | .mark kind label true => if r.pos = p then { r with body := .mark kind label false } else r
    | _ => r

/-- A channel that halts or is halted: output cut off, the prepare point absent, STOPPED (R153, R158). -/
def Channel.halt (ch : Channel) : Channel := { ch.cutOff with prepPoint := none, state := .stopped }

/-- Step 4 of R152: the marks reached, and whether the channel halted at one (R153). -/
def Works.reachMarks (k : Works) (c p : Nat) : Works × Bool :=
  let ch := k.chan c
  let reached := armedAt ch.feed p
  match reached.getLast? with
  | none => (k, false)
  | some (_, label) =>
    let k1 := (k.modChan c fun ch => { ch with feed := disarmAt ch.feed p }).raiseWith .markReached c
      (BitVec.ofNat 32 p) label
    if ch.settings.haltOnInstruction && reached.any fun m => decide (m.1 = .instructionMark) then
      (k1.modChan c Channel.halt, true)
    else (k1, false)

/-- Enter ENDED at the END record (R155). -/
def Works.reachEnd (k : Works) (c finalLength : Nat) : Works :=
  (k.modChan c fun ch => { ch with state := .ended, prepPoint := none }).raise .feedEnded c finalLength

/-- Enter STARVED: zeros go out (R154); the detail is the play point, or 0xFFFFFFFF while it is absent. -/
def Works.starve (k : Works) (c : Nat) : Works :=
  let p := (k.chan c).playPoint
  (k.modChan c fun ch => { ch with state := .starved, output := some zeroFrame }).raise .starved c
    (p.getD 0xFFFFFFFF)

/-- Steps 5 to 7 of R152 at play point `p`. -/
def Works.playPosition (k : Works) (c p : Nat) : Works :=
  let ch := k.chan c
  if ch.feed.any fun r => r.isEnd && decide (r.pos = p) then k.reachEnd c p
  else
    match ch.filledSide p with
    | some (side, f) => k.modChan c fun ch => ch.sendFilled side f p
    | none =>
      match recordAt ch.feed p with
      | some r => if r.isSpeech then k.stall c else k.modChan c fun ch => ch.sendZeros p
      | none => k.starve c

/-- Steps 3 to 9 of R152 for a PLAYING channel. -/
def Works.playSteps (k : Works) (c : Nat) : Works :=
  let ch := k.chan c
  match ch.playPoint with
  | none => k.starve c
  | some p =>
    let q := skipFrom ch.feed ch.settings.trim p
    let k1 := k.modChan c fun ch => { ch with playPoint := some q }
    let marked := k1.reachMarks c q
    let k2 := if marked.2 then marked.1 else marked.1.playPosition c q
    (k2.freeTail c).compareFeedLow c ch.unplayed

/-- Whether a record stands at the play point: one that holds it, or a MARK or END record there (R154). -/
def Channel.recordAtPlay (ch : Channel) : Bool :=
  match ch.playPoint with
  | none => false
  | some p => ch.feed.any fun r => r.holds p || (decide (r.count = 0) && decide (r.pos = p))

/-- The frame boundary of a STARVED channel (R154). -/
def Works.starvedSteps (k : Works) (c : Nat) : Works :=
  if (k.chan c).recordAtPlay then (k.modChan c fun ch => { ch with state := .playing }).playSteps c
  else k.modChan c fun ch => { ch with output := some zeroFrame }

/-- The frame boundary of a transcription channel (R94, R152, R154). -/
def Works.transcriptionBoundary (k : Works) (c : Nat) : Works :=
  let k1 := (k.loadAtBoundary c).modChan c Channel.endSending
  match (k1.chan c).state with
  | .playing => k1.playSteps c
  | .starved => k1.starvedSteps c
  | _ => k1

/-- The frame boundary of a channel that is not a transcription channel (R80, R83, R89, R94). -/
def Works.otherBoundary (k : Works) (c : Nat) (locked : Bool) : Works :=
  match (k.chan c).state with
  | .recording => (k.modChan c Channel.endSending).recordingBoundary c locked
  | .reviewing => k.reviewBoundary c
  | _ => (k.loadAtBoundary c).modChan c Channel.endSending

/-! ### The boundary of all channels (R164) -/

/-- Every output frame has gone out in full (R166). -/
def Works.endOutputs (k : Works) : Works :=
  { k with chans := k.chans.map fun ch => { ch with output := none } }

/-- The frame boundary (R164): output frames end, transcription channels act, so that the entries they return come first
(R40), then the other channels, each group in ascending order, and a grant follows the work of all (R100, log 27). -/
def Works.boundary (k : Works) (locked : Bool) : Works :=
  let k1 := k.endOutputs
  let k2 := k1.eachChan fun acc c => if (acc.chan c).kind = .transcription then acc.transcriptionBoundary c else acc
  let k3 := k2.eachChan fun acc c =>
    if (acc.chan c).kind = .transcription then acc else acc.otherBoundary c locked
  k3.grantIfIdle

end Sys2Proof.Machine
end

