-- ==== Sys2Proof/Machine/Coder.lean ====
section
/-! DEFINITION. The completions of coder jobs (R104 to R109). -/

namespace Sys2Proof.Machine

/-! ### ENCODE (R104 to R106) -/

/-- The frame IN SERVICE of a channel (R81). -/
def Channel.servedFrame (ch : Channel) : Option WaitFrame := ch.capture.find? WaitFrame.inService

/-- The slot that a completion took is written with the frame record, its damaged flag clear (R104); without a slot the
record is not kept (R105). -/
def Store.keep (st : Store) (slot : Option Nat) (r : FrameRecord) : Store :=
  match slot with
  | some n => st.write n r.toBytes
  | none => st

/-- The completion of an ENCODE job whose frame is `f` (R104 to R106, R14). -/
def State.encoded (s : State) (c i entry : Nat) (width : Width) (base : Sample) (f : Frame) : State :=
  let done := s.works.encodeDone c i entry (finalReconstruction width base f)
  { s with works := done.1, store := s.store.keep done.2 (encodeFrame width base f) }

/-- ENCODE_COMPLETION (R104 to R106). Without an ENCODE job in service no completion occurs (log 1, log 29). -/
def execEncodeCompletion (s : State) : Host.Outcome State Fault Refusal :=
  match s.works.job with
  | some (.encode c i entry width base) =>
    match (s.works.chan c).servedFrame with
    | some w => .next (s.encoded c i entry width base w.samples)
    | none => .next s
  | _ => .next s

/-! ### DECODE (R107 to R109) -/

/-- The completion of a DECODE job of the current generation, given what the read of its slot returned (R108, R109). -/
def Works.decoded (k : Works) (c : Nat) (source : JobSource) (entry : Nat) (side : Side) (slot : Nat)
    (got : Option (List Byte)) : Works :=
  match got with
  | some bytes => k.decodePassed c side (decodeFrame (FrameRecord.ofBytes bytes))
  | none => k.decodeFailed c source entry side slot

/-- DECODE_COMPLETION (R107 to R109). A job of an older generation completes stale and reads nothing; without a DECODE job in
service no completion occurs (log 1, log 29). -/
def execDecodeCompletion (errs : List CellError) (s : State) : Host.Outcome State Fault Refusal :=
  match s.works.job with
  | some (.decode c source entry side generation) =>
    if generation ≠ (s.works.chan c).generation then .next { s with works := s.works.decodeStale }
    else
      match s.works.jobSlot c source entry with
      | none => .next { s with works := s.works.decodeStale }
      | some slot =>
        match s.store.read errs slot with
        | .error f => .fault f
        | .ok got => .next { s with works := s.works.decoded c source entry side slot got }
  | _ => .next s

end Sys2Proof.Machine
end

