-- ==== Sys2Proof/Machine/Letters.lean ====
section
/-! DEFINITION. The letter requests (03_letters_and_the_edit_list.md, R52 to R58): OPEN, ATTACH, DETACH, END, DISCARD,
TRUNCATE. -/

namespace Sys2Proof.Machine

/-! ### The checks of R52 -/

/-- OPEN and ATTACH: a channel target, a body of four bytes, a CLOSED channel (R52, R189): the channel and the job
number. -/
def openChecks (m : Message) (k : Works) : Except Status (Nat × Nat) :=
  match channelTargetSized m k 4 with
  | .error st => .error st
  | .ok c => if (k.chan c).state = .closed then .ok (c, leValue m.body) else .error .busy

/-- DETACH, END, TRUNCATE and DISCARD by channel at the channel's kind and state (R52): a READY channel with its letter. -/
def Works.readyLetter (k : Works) (c : Nat) : Except Status Nat :=
  let ch := k.chan c
  if ch.state = .closed then .error .notOpen
  else if ch.kind = .transcription then .error .wrongKind
  else
    match ch.state, ch.letter with
    | .ready, some i => .ok i
    | _, _ => .error .busy

/-- The same checks after target and length: the channel and its letter. -/
def readyChecks (m : Message) (k : Works) : Except Status (Nat × Nat) :=
  match channelTargetSized m k 0 with
  | .error st => .error st
  | .ok c =>
    match k.readyLetter c with
    | .error st => .error st
    | .ok i => .ok (c, i)

/-- A channel that a letter request releases: output cut off with a new play generation (R52, R88, R90), and CLOSED. -/
def Channel.release (ch : Channel) : Channel := ch.cutOff.close

/-! ### OPEN (R53) -/

/-- The letter of OPEN. -/
def Letter.opened (job c : Nat) : Letter :=
  { Letter.freeRecord with state := .attached, job := job, channel := some c }

/-- OPEN is taken: record `i` is used. -/
def Works.openLetter (k : Works) (c i job : Nat) : Works :=
  (k.modLetter i fun _ => Letter.opened job c).modChan c fun ch => ch.openAs .dictation .ready (some i)

/-- OPEN at its owner (R53). -/
def openAnswer (m : Message) (k : Works) : Reply × Works :=
  match openChecks m k with
  | .error st => (refuse st, k)
  | .ok (c, job) =>
    if (k.findJob job).isSome then (refuse .inUse, k)
    else
      match k.findFree with
      | none => (refuse .full, k)
      | some i => (⟨.ok, byte1 i⟩, k.openLetter c i job)

/-- OPEN (R53). -/
def execReqOpen (s : State) : Host.Outcome State Fault Refusal := s.carryOut 0x11#8 (onWorks openAnswer)

/-! ### ATTACH (R54) -/

/-- ATTACH is taken: letter `i` joins channel `c`, and sealing is applied with the channel's window (R48, R54). -/
def Works.attachLetter (k : Works) (c i : Nat) : Works :=
  ((k.modLetter i fun l => { l with state := .attached, channel := some c }).modChan c fun ch =>
    ch.openAs .dictation .ready (some i)).applySealing i

/-- What ATTACH replies: the letter as it stands after the sealing (log 15). -/
def attachBody (i : Nat) (l : Letter) : List Byte := byte1 i ++ byte3 l.cursor ++ byte3 l.length ++ byte3 l.sealB

/-- ATTACH at its owner (R54). -/
def attachAnswer (m : Message) (k : Works) : Reply × Works :=
  match openChecks m k with
  | .error st => (refuse st, k)
  | .ok (c, job) =>
    match k.findJob job with
    | none => (refuse .badTarget, k)
    | some i =>
      match (k.letter i).state with
      | .detached => (⟨.ok, attachBody i ((k.attachLetter c i).letter i)⟩, k.attachLetter c i)
      | .sealing => (refuse .ended, k)
      | _ => (refuse .inUse, k)

/-- ATTACH (R54). -/
def execReqAttach (s : State) : Host.Outcome State Fault Refusal := s.carryOut 0x12#8 (onWorks attachAnswer)

/-! ### DETACH (R55) -/

/-- DETACH is taken. -/
def Works.detachLetter (k : Works) (c i : Nat) : Works :=
  (k.modChan c Channel.release).modLetter i fun l => { l with state := .detached, channel := none }

/-- DETACH at its owner (R55). -/
def detachAnswer (m : Message) (k : Works) : Reply × Works :=
  match readyChecks m k with
  | .error st => (refuse st, k)
  | .ok (c, i) => (⟨.ok, []⟩, k.detachLetter c i)

/-- DETACH (R55). -/
def execReqDetach (s : State) : Host.Outcome State Fault Refusal := s.carryOut 0x13#8 (onWorks detachAnswer)

/-! ### END (R56) -/

/-- The letter that END leaves: the whole edit list sealed with its marks, the marks at the length kept (R56, R69). -/
def Letter.ended (l : Letter) : Letter :=
  { l with state := .sealing, channel := none, edit := [],
           sealedList := l.sealedList ++ withMarks l.marks l.sealB l.edit, cursor := l.length, sealB := l.length,
           marks := l.marks.filter fun m => decide (l.length ≤ m.pos) }

/-- END is taken; SEAL_READY is raised when the sealed list was empty (R50, R56). -/
def Works.endLetter (k : Works) (c i : Nat) : Works :=
  let k1 := (k.modChan c Channel.release).modLetter i Letter.ended
  if (k.letter i).sealedList.isEmpty then k1.raise .sealReady c i else k1

/-- END at its owner (R56). -/
def endAnswer (m : Message) (k : Works) : Reply × Works :=
  match readyChecks m k with
  | .error st => (refuse st, k)
  | .ok (c, i) => (⟨.ok, byte3 (k.letter i).length⟩, k.endLetter c i)

/-- END (R56). -/
def execReqEnd (s : State) : Host.Outcome State Fault Refusal := s.carryOut 0x14#8 (onWorks endAnswer)

/-! ### DISCARD (R57) -/

/-- The entries that a letter holds, sealed and not (R57). -/
def Letter.entryCount (l : Letter) : Nat := l.sealedList.length + l.edit.length

/-- The slots that a letter holds, the sealed list's first (R57, R183). -/
def Letter.slots (l : Letter) : List Nat := slotsOf (l.sealedList.map SealedEntry.entry) ++ slotsOf l.edit

/-- A letter is discarded: its entries and its slots return, in position order, and its record is FREE (R57). -/
def Works.discardLetter (k : Works) (i : Nat) : Works :=
  (k.modLetter i fun _ => Letter.freeRecord).giveBack (k.letter i).entryCount (k.letter i).slots

/-- DISCARD by channel (R57). -/
def discardByChannel (m : Message) (k : Works) : Reply × Works :=
  match readyChecks m k with
  | .error st => (refuse st, k)
  | .ok (c, i) => (⟨.ok, []⟩, (k.modChan c Channel.release).discardLetter i)

/-- DISCARD by job number (R57). -/
def discardByJob (m : Message) (k : Works) : Reply × Works :=
  match deviceChecks true m k fun len => decide (len = 4) with
  | some st => (refuse st, k)
  | none =>
    match k.findJob (leValue m.body) with
    | none => (refuse .badTarget, k)
    | some i =>
      if (k.letter i).state = .attached then (refuse .inUse, k) else (⟨.ok, []⟩, k.discardLetter i)

/-- DISCARD at its owner (R57): the device in its one form, a channel in the other. -/
def discardAnswer (m : Message) (k : Works) : Reply × Works :=
  if targetOf m.target = .device then discardByJob m k else discardByChannel m k

/-- DISCARD (R57). -/
def execReqDiscard (s : State) : Host.Outcome State Fault Refusal := s.carryOut 0x15#8 (onWorks discardAnswer)

/-! ### TRUNCATE (R58, R68) -/

/-- The letter that TRUNCATE leaves: cut at its cursor. -/
def Letter.cutOffAtCursor (l : Letter) : Letter :=
  { l with edit := l.truncated l.cursor, length := l.cursor, marks := l.marks.filter fun m => decide (m.pos ≤ l.cursor) }

/-- TRUNCATE is taken: what starts at or after the cursor returns, and sealing is applied (R58). -/
def Works.truncateLetter (k : Works) (c i : Nat) : Works :=
  let gone := (k.letter i).cutAway (k.letter i).cursor
  (((k.modChan c Channel.cutOff).modLetter i Letter.cutOffAtCursor).giveBack gone.length (slotsOf gone)).applySealing i

/-- TRUNCATE at its owner (R58). -/
def truncateAnswer (m : Message) (k : Works) : Reply × Works :=
  match readyChecks m k with
  | .error st => (refuse st, k)
  | .ok (c, i) => (⟨.ok, byte3 (k.letter i).cursor⟩, k.truncateLetter c i)

/-- TRUNCATE (R58). -/
def execReqTruncate (s : State) : Host.Outcome State Fault Refusal := s.carryOut 0x16#8 (onWorks truncateAnswer)

end Sys2Proof.Machine
end

