-- ==== Sys2Proof/Machine/Device.lean ====
section
/-! DEFINITION. The device requests (11_control_link_requests_and_events.md): UNKNOWN_KIND, IDENTIFY, STATUS, CONFIGURE, POLL,
with DEFECTS (R121), RESTART (R192) and SET (R92 to R95). -/

namespace Sys2Proof.Machine

/-! ### UNKNOWN_KIND and IDENTIFY -/

/-- UNKNOWN_KIND (R180, R181): a kind outside the table is refused in every state of the part. -/
def execReqUnknownKind (s : State) : Host.Outcome State Fault Refusal :=
  match s.takeRequest fun b => !isKnownKind b with
  | none => .next s
  | some (m, s1) => .next (s1.placeReply m (refuse .unknownKind))

/-- What IDENTIFY reports (R182). -/
def identifyBody : List Byte :=
  byte2 0x4E57 ++ byte2 2040 ++ byte1 1 ++ byte1 Config.channelCount ++ byte2 Config.slotCount ++
    byte2 Config.entryCount ++ byte1 Config.letterCount

/-- A body's length is the one given (R189). -/
def lengthIs (n len : Nat) : Bool := decide (len = n)

/-- IDENTIFY at its owner (R182). -/
def identifyAnswer (m : Message) (s : State) : Reply × State :=
  match deviceChecks false m s.works (lengthIs 0) with
  | some st => (refuse st, s)
  | none => (⟨.ok, identifyBody⟩, s)

/-- IDENTIFY (R182). -/
def execReqIdentify (s : State) : Host.Outcome State Fault Refusal := s.carryOut 0x01#8 identifyAnswer

/-! ### STATUS (R183, R65, R142, R175) -/

/-- Two flags in bits 0 and 1. -/
def twoFlags (b0 b1 : Bool) : List Byte := byte1 ((if b0 then 1 else 0) + (if b1 then 2 else 0))

/-- Letter records that are not FREE (R183). -/
def Works.lettersHeld (k : Works) : Nat := (k.letters.filter fun l => decide (l.state ≠ .free)).length

/-- The device's STATUS: the fields of R189's table, 27 bytes (log 13). -/
def State.deviceStatus (s : State) : List Byte :=
  let k := s.works
  let n := s.monitor
  byte1 k.startup.code ++ byte1 s.lastCause.code ++ byte1 s.link.rate.code ++ byte1 s.link.framing ++
    byte1 s.link.overrun ++ byte1 s.link.discarded ++ byte1 n.lock.code ++ twoFlags n.fast n.slow ++ byte2 n.maxDrift ++
    byte1 n.tolerance ++ byte2 k.freePool.length ++ byte2 k.freeEntries ++ byte2 k.retired ++ byte2 k.slotMark ++
    byte2 k.entryMark ++ twoFlags k.slotArmed k.entryArmed ++ byte4 k.mask.toNat ++ byte1 k.lettersHeld

/-- A device STATUS clears the three link counts, FAST, SLOW and the maximum drift (R175, R179, R183). -/
def State.clearReported (s : State) : State :=
  { s with link := { s.link with framing := 0, overrun := 0, discarded := 0 },
           monitor := { s.monitor with fast := false, slow := false, maxDrift := 0 } }

/-- STATUS of a dictation channel (R74, R183). -/
def dictationStatus (ch : Channel) (l : Letter) : List Byte :=
  byte1 ch.kind.code ++ byte1 ch.state.code ++ [optByte ch.letter] ++ byte2 ch.dropped ++ byte2 ch.overrun ++
    byte2 ch.late ++ byte3 l.cursor ++ byte3 l.length ++ byte3 l.sealB ++ byte2 l.squeezed ++ [flagByte l.overflow]

/-- A position of a transcription STATUS: 0 while the expected position is absent (R189). -/
def Channel.statusPos (ch : Channel) (p : Option Nat) : List Byte :=
  if ch.expected.isSome then posOrZero p else byte3 0

/-- STATUS of a transcription channel (R142). -/
def transcriptionStatus (ch : Channel) : List Byte :=
  byte1 ch.kind.code ++ byte1 ch.state.code ++ twoFlags ch.expected.isSome ch.endFed ++ ch.statusPos ch.playPoint ++
    ch.statusPos ch.expected ++ ch.statusPos ch.retainedStart ++ byte1 ch.feed.length ++
    byte1 (feedSlotsOf ch.feed).length ++ byte1 (ch.feed.filter FeedRec.isDamaged).length ++ byte2 ch.late

/-- The letter that a channel's STATUS reports. -/
def Works.letterOf (k : Works) (ch : Channel) : Letter :=
  match ch.letter with
  | some i => k.letter i
  | none => Letter.freeRecord

/-- STATUS of channel `c` (R183). -/
def Works.channelStatus (k : Works) (c : Nat) : List Byte :=
  let ch := k.chan c
  match ch.kind with
  | .noKind => byte1 ch.kind.code ++ byte1 ch.state.code
  | .dictation => dictationStatus ch (k.letterOf ch)
  | .transcription => transcriptionStatus ch

/-- A channel STATUS clears the mark overflow flag that it reports (R65). -/
def Works.clearOverflow (k : Works) (c : Nat) : Works :=
  match (k.chan c).kind, (k.chan c).letter with
  | .dictation, some i => k.modLetter i fun l => { l with overflow := false }
  | _, _ => k

/-- STATUS of a letter record (R183). -/
def letterStatus (l : Letter) : List Byte :=
  if l.state = .free then byte1 l.state.code
  else
    byte1 l.state.code ++ byte4 l.job ++ [optByte l.channel] ++ byte3 l.cursor ++ byte3 l.sealB ++ byte3 l.length ++
      byte2 l.squeezed ++ byte1 l.marks.length ++ byte2 l.edit.length ++ byte2 l.sealedList.length ++
      byte2 l.slots.length ++ [flagByte l.overflow]

/-- STATUS at its owner (R183): the target is checked, then the length of the body. -/
def statusAnswer (m : Message) (s : State) : Reply × State :=
  let target := targetOf m.target
  if target = .noForm then (refuse .badTarget, s)
  else if m.body.length ≠ 0 then (refuse .badField, s)
  else
    match target with
    | .device => (⟨.ok, s.deviceStatus⟩, s.clearReported)
    | .channel c => (⟨.ok, s.works.channelStatus c⟩, { s with works := s.works.clearOverflow c })
    | .letter i => (⟨.ok, letterStatus (s.works.letter i)⟩, s)
    | .noForm => (refuse .badTarget, s)

/-- STATUS (R183). -/
def execReqStatus (s : State) : Host.Outcome State Fault Refusal := s.carryOut 0x02#8 statusAnswer

/-! ### CONFIGURE (R130, R175, R184) -/

/-- A mask that is carried replaces the whole mask (R184). -/
def Works.loadMask (k : Works) (mask : Option (BitVec 32)) : Works :=
  match mask with
  | some v => { k with mask := v }
  | none => k

/-- A tolerance that is carried, limited to 0..40 (R175). -/
def Monitor.loadTolerance (n : Monitor) (tolerance : Option Nat) : Monitor :=
  match tolerance with
  | some v => { n with tolerance := min v 40 }
  | none => n

/-- A slot low mark that is carried, limited to 0..4096 (R130). -/
def Works.loadSlotMark (k : Works) (mark : Option Nat) : Works :=
  match mark with
  | some v => k.setSlotMark (min v 4096)
  | none => k

/-- An entry low mark that is carried, limited to 0..4096 (R130). -/
def Works.loadEntryMark (k : Works) (mark : Option Nat) : Works :=
  match mark with
  | some v => k.setEntryMark (min v 4096)
  | none => k

/-- The fields carried take effect in the order mask, tolerance, slot low mark, entry low mark (R184). -/
def State.configure (s : State) (cfg : Configured) : State :=
  { s with monitor := s.monitor.loadTolerance cfg.tolerance,
           works := ((s.works.loadMask cfg.mask).loadSlotMark cfg.slotMark).loadEntryMark cfg.entryMark }

/-- Whether a value carried exceeds a limit. -/
def exceeds (v : Option Nat) (top : Nat) : Bool := v.any fun n => decide (top < n)

/-- Whether a field is clamped (R184). -/
def Configured.clamped (cfg : Configured) : Bool :=
  exceeds cfg.tolerance 40 || exceeds cfg.slotMark 4096 || exceeds cfg.entryMark 4096

/-- The four values in force (R184). -/
def State.configValues (s : State) : List Byte :=
  byte4 s.works.mask.toNat ++ byte1 s.monitor.tolerance ++ byte2 s.works.slotMark ++ byte2 s.works.entryMark

/-- CONFIGURE at its owner (R184). -/
def configureAnswer (m : Message) (s : State) : Reply × State :=
  match deviceChecks true m s.works fun _ => true with
  | some st => (refuse st, s)
  | none =>
    match configBody m.body with
    | none => (refuse .badField, s)
    | some cfg => (⟨okOrClamped cfg.clamped, (s.configure cfg).configValues⟩, s.configure cfg)

/-- CONFIGURE (R184). -/
def execReqConfigure (s : State) : Host.Outcome State Fault Refusal := s.carryOut 0x03#8 configureAnswer

/-! ### POLL (R185, R187) -/

/-- The detail of FEED_LOW: the unplayed positions, or a free value while they are without meaning (R142, log 12). -/
def Works.feedLowDetail (k : Works) (c : Nat) : BitVec 32 :=
  match (k.chan c).unplayed with
  | some n => BitVec.ofNat 32 n
  | none => Config.unplayedWithoutMeaning k.freeDraws

/-- The detail that POLL delivers: read now, or as stored (R185). -/
def Works.pollDetail (k : Works) (e : Event) : BitVec 32 :=
  match e.kind with
  | .slotsLow => BitVec.ofNat 32 k.freePool.length
  | .entriesLow => BitVec.ofNat 32 k.freeEntries
  | .overrun => BitVec.ofNat 32 (k.chan e.chan).overrun
  | .poolEmpty => BitVec.ofNat 32 (k.chan e.chan).dropped
  | .late => BitVec.ofNat 32 (k.chan e.chan).late
  | .feedLow => k.feedLowDetail e.chan
  | _ => e.detail

/-- Whether delivering an event draws a free value (log 12). -/
def Works.drawsFree (k : Works) (e : Event) : Bool := decide (e.kind = .feedLow) && (k.chan e.chan).unplayed.isNone

/-- The flag of an event is cleared. -/
def Works.clearEvent (k : Works) (e : Event) : Works :=
  { k with events := k.events.filter fun f => decide (f.key ≠ e.key),
           freeDraws := if k.drawsFree e then k.freeDraws + 1 else k.freeDraws }

/-- An event in a POLL reply (R187, R189). -/
def Works.eventBody (k : Works) (e : Event) : List Byte :=
  byte1 e.kind.code ++ byte1 e.chan ++ byte4 (k.pollDetail e).toNat ++ byte2 e.label.toNat

/-- NONE in a POLL reply (R187). -/
def noneBody : List Byte := byte1 0 ++ byte1 deviceChan ++ byte4 0 ++ byte2 0

/-- POLL at its owner (R187). -/
def pollAnswer (m : Message) (k : Works) : Reply × Works :=
  match deviceChecks true m k (lengthIs 0) with
  | some st => (refuse st, k)
  | none =>
    match k.mostUrgent with
    | some e => (⟨.ok, k.eventBody e⟩, k.clearEvent e)
    | none => (⟨.ok, noneBody⟩, k)

/-- POLL (R187). -/
def execReqPoll (s : State) : Host.Outcome State Fault Refusal := s.carryOut 0x04#8 (onWorks pollAnswer)

/-! ### DEFECTS (R121) -/

/-- A defect table entry in a DEFECTS reply (R189). -/
def Defect.bytes (d : Defect) : List Byte := byte2 d.slot ++ byte1 d.source.code

/-- What DEFECTS reports (R121, R189). -/
def Works.defectsBody (k : Works) : List Byte :=
  byte1 k.startup.code ++ byte1 k.defects.length ++ k.defects.flatMap Defect.bytes ++ byte2 k.unlisted ++
    [flagByte k.defectOverflow] ++ byte2 k.freePool.length

/-- DEFECTS at its owner (R121). -/
def defectsAnswer (m : Message) (k : Works) : Reply × Works :=
  match deviceChecks false m k (lengthIs 0) with
  | some st => (refuse st, k)
  | none => (⟨.ok, k.defectsBody⟩, k)

/-- DEFECTS (R121). -/
def execReqDefects (s : State) : Host.Outcome State Fault Refusal := s.carryOut 0x05#8 (onWorks defectsAnswer)

/-! ### RESTART (R188, R192) -/

/-- A RESTART that is taken: the receiver is held in HUNTING until it is made (R188, R192). A message being assembled
is dropped with it and not counted as discarded: the model's choice (log 34). -/
def State.takeRestart (s : State) (kind : RestartKind) : State :=
  { s with link := { s.link with restart := some kind, receiver := .hunting } }

/-- RESTART at its owner (R192). -/
def restartAnswer (m : Message) (s : State) : Reply × State :=
  if targetOf m.target ≠ .device then (refuse .badTarget, s)
  else
    match restartKindOf m.body with
    | none => (refuse .badField, s)
    | some kind => (⟨.ok, []⟩, s.takeRestart kind)

/-- RESTART (R192). -/
def execReqRestart (s : State) : Host.Outcome State Fault Refusal := s.carryOut 0x06#8 restartAnswer

/-! ### SET (R92 to R95) -/

/-- Whether a channel loads a SET at once (R94). -/
def ChanState.loadsAtOnce : ChanState → Bool
  | .closed => true
  | .ready => true
  | .stopped => true
  | .ended => true
  | _ => false

/-- A SET at one channel (R94). -/
def Works.setChannel (k : Works) (svs : List SettingValue) (c : Nat) : Works :=
  if (k.chan c).state.loadsAtOnce then svs.foldl (fun acc v => acc.loadSetting c v) k
  else k.modChan c fun ch => { ch with staged := svs.foldl Staged.put ch.staged }

/-- A SET at the channels it names (R92), one after the other in ascending order, as the list stands: the model's choice
(log 36). One grant follows the work of all. -/
def Works.setChannels (k : Works) (chans : List Nat) (svs : List SettingValue) : Works :=
  (chans.foldl (fun acc c => acc.setChannel svs c) k).grantIfIdle

/-- Whether a SET changes anything: not with an empty mask or no fields, which replies OK (R92, log 22). -/
def setActs (chans : List Nat) (svs : List SettingValue) : Bool := !chans.isEmpty && !svs.isEmpty

/-- SET at its owner (R92). -/
def setAnswer (m : Message) (k : Works) : Reply × Works :=
  match deviceChecks true m k fun _ => true with
  | some st => (refuse st, k)
  | none =>
    match setBodyOf m.body with
    | none => (refuse .badField, k)
    | some (chans, svs, cl) =>
      if setActs chans svs then (⟨okOrClamped cl, []⟩, k.setChannels chans svs) else (⟨.ok, []⟩, k)

/-- SET (R92 to R95). -/
def execReqSet (s : State) : Host.Outcome State Fault Refusal := s.carryOut 0x07#8 (onWorks setAnswer)

end Sys2Proof.Machine
end

