-- ==== Sys2Proof/Machine/Link.lean ====
section
/-! DEFINITION. The receiver of the control link (R178, R179): characters, framing errors, breaks. -/

namespace Sys2Proof.Machine

/-- Bytes of a message with its lead and length bytes (R179, R189). -/
def Message.size (m : Message) : Nat := 6 + m.body.length

/-- Bytes reserved for the message being assembled; a receive overrun reserves none (R179). -/
def Receiver.reserved : Receiver → Nat
  | .collecting left got false => 3 + left + got.length
  | _ => 0

/-- Free bytes of the receive queue (R179). -/
def Link.rxFree (l : Link) : Nat := Config.rxBytes - ((l.rx.map Message.size).sum + l.receiver.reserved)

/-- A complete message: kind, target, tag, body (R189). -/
def messageOf : List Byte → Option Message
  | kind :: target :: tag :: body => some ⟨kind, target, tag, body⟩
  | _ => none

/-- A complete message joins the back of the receive queue (R178). -/
def Link.complete (l : Link) (bytes : List Byte) : Link :=
  { l with rx := l.rx ++ (messageOf bytes).toList, receiver := .hunting }

/-- Both length bytes have arrived (R178, R179). -/
def Link.checkLength (l : Link) (len : Nat) : Link :=
  if len < 3 ∨ 1027 < len then { l with discarded := sat8 l.discarded, receiver := .hunting }
  else if l.rxFree < 3 + len then
    { l with overrun := sat8 l.overrun, discarded := sat8 l.discarded, receiver := .collecting len [] true }
  else { l with receiver := .collecting len [] false }

/-- One of the length's count of characters; the last completes the message (R178), or ends a receive overrun (R179). -/
def Link.collect (l : Link) (left : Nat) (got : List Byte) (ovr : Bool) (b : Byte) : Link :=
  let kept := if ovr then got else b :: got
  if left ≤ 1 then (if ovr then { l with receiver := .hunting } else l.complete kept.reverse)
  else { l with receiver := .collecting (left - 1) kept ovr }

/-- The receiver takes one character (R178). -/
def Link.char (l : Link) (b : Byte) : Link :=
  match l.receiver with
  | .hunting => if b = 0xD7#8 then { l with receiver := .lengthBytes [] } else l
  | .lengthBytes [] => { l with receiver := .lengthBytes [b] }
  | .lengthBytes (low :: _) => l.checkLength (leValue [low, b])
  | .collecting left got ovr => l.collect left got ovr b
  | .brokenOff => l

/-- Whether characters reach the receiver: not while the part is held (R191), while a RESTART is taken (R188), or while
LRXD is held low by a break (R179). -/
def State.listening (s : State) : Bool := !s.resetAsserted && s.link.restart.isNone && !s.link.breakOn

/-- Characters arrive on LRXD, one after the other (R178, log 6). -/
def State.receive (s : State) (chars : List Byte) : State :=
  if s.listening then { s with link := chars.foldl Link.char s.link } else s

/-- Whether a message is being assembled that is not yet counted as discarded (R179). -/
def Receiver.uncounted : Receiver → Bool
  | .lengthBytes _ => true
  | .collecting _ _ ovr => !ovr
  | _ => false

/-- A fault discards the message being assembled, counting it once (R179). -/
def Link.discard (l : Link) : Link :=
  { l with discarded := if l.receiver.uncounted then sat8 l.discarded else l.discarded }

/-- LEAD_BYTE_RECEIVED (R178): in HUNTING the lead byte begins a message and any other character is discarded. -/
def execLeadByteReceived (char : Byte) (s : State) : Host.Outcome State Fault Refusal := .next (s.receive [char])

/-- MESSAGE_LENGTH_RECEIVED (R178, R179): both length bytes arrive and the length is checked. -/
def execMessageLengthReceived (low high : Byte) (s : State) : Host.Outcome State Fault Refusal :=
  .next (s.receive [low, high])

/-- MESSAGE_RECEIVED (R178): the characters that complete a message arrive. -/
def execMessageReceived (chars : List Byte) (s : State) : Host.Outcome State Fault Refusal := .next (s.receive chars)

/-- FRAMING_ERROR (R179). -/
def execFramingError (s : State) : Host.Outcome State Fault Refusal :=
  if s.listening then
    .next { s with link := { s.link.discard with framing := sat8 s.link.framing, receiver := .hunting } }
  else .next s

/-- A break begins: a message being assembled is discarded, and the receiver waits for LRXD to go high (R179). -/
def Link.beginBreak (l : Link) : Link :=
  { l.discard with breakOn := true, receiver := if l.receiver = .hunting then .hunting else .brokenOff }

/-- BREAK (R179). -/
def execLineBreak (s : State) : Host.Outcome State Fault Refusal :=
  if s.resetAsserted || s.link.breakOn then .next s else .next { s with link := s.link.beginBreak }

/-- BREAK_END (R179): LRXD is high again and the receiver returns to HUNTING. -/
def execLineBreakEnd (s : State) : Host.Outcome State Fault Refusal :=
  if s.resetAsserted || !s.link.breakOn then .next s
  else .next { s with link := { s.link with breakOn := false, receiver := .hunting } }

end Sys2Proof.Machine
end

