-- ==== Sys2Proof/Machine/Motion.lean ====
section
/-! DEFINITION. The motion requests (05_channels_motion_and_settings.md, R76 to R87; R72, R73): RECORD, STOP, WIND, REVIEW. -/

namespace Sys2Proof.Machine

/-! ### Checks 3 and 4 of R76 and R62 -/

/-- A dictation channel that is not CLOSED has its letter (R75); a CLOSED one answers NOT_OPEN, a transcription channel
WRONG_KIND. -/
def Works.dictationLetter (k : Works) (c : Nat) : Except Status Nat :=
  let ch := k.chan c
  if ch.state = .closed then .error .notOpen
  else if ch.kind = .transcription then .error .wrongKind
  else
    match ch.letter with
    | some i => .ok i
    | none => .error .notOpen

/-- Checks 1 to 4: the channel and its letter. -/
def dictationChecks (m : Message) (k : Works) : Except Status (Nat × Nat) :=
  match channelTarget m k with
  | .error st => .error st
  | .ok c =>
    match k.dictationLetter c with
    | .error st => .error st
    | .ok i => .ok (c, i)

/-! ### RECORD (R77 to R79) -/

/-- A channel enters RECORDING with its mode, capture not started (R77). -/
def Channel.startRecording (ch : Channel) (mode : RecMode) : Channel :=
  { ch with state := .recording, recMode := some mode, pendingMode := none, captureStarted := false, filling := [] }

/-- RECORD for a RECORDING channel (R79): the mode becomes pending; the mode in force with none pending changes nothing. -/
def Channel.changeMode (ch : Channel) (mode : RecMode) : Channel :=
  if ch.pendingMode = none ∧ ch.recMode = some mode then ch else { ch with pendingMode := some mode }

/-- RECORD past its checks (R77, R78, R79). -/
def Works.record (k : Works) (c i : Nat) (mode : RecMode) : Reply × Works :=
  match (k.chan c).state with
  | .ready => (⟨.ok, []⟩, k.modChan c fun ch => ch.startRecording mode)
  | .reviewing => (⟨.ok, []⟩, ((k.endReview c i).modChan c fun ch => ch.startRecording mode).applySealing i)
  | .recording => (⟨.ok, []⟩, k.modChan c fun ch => ch.changeMode mode)
  | _ => (refuse .busy, k)

/-- RECORD at its owner (R76). -/
def recordAnswer (m : Message) (k : Works) : Reply × Works :=
  match dictationChecks m k with
  | .error st => (refuse st, k)
  | .ok (c, i) =>
    match recordBody m.body with
    | none => (refuse .badField, k)
    | some mode => k.record c i mode

/-- RECORD (R77 to R79). -/
def execReqRecord (s : State) : Host.Outcome State Fault Refusal := s.carryOut 0x20#8 (onWorks recordAnswer)

/-! ### STOP (R82 to R84) -/

/-- STOP for a RECORDING channel (R82): the held frames go out as pause, and the span ends. -/
def Works.stopRecording (k : Works) (c : Nat) : Works := (k.releaseHeld c).modChan c Channel.endSpan

/-- What STOP does at a dictation channel (R82, R83, R84). -/
def Works.stopChan (k : Works) (c i : Nat) : Works :=
  match (k.chan c).state with
  | .recording => k.stopRecording c
  | .reviewing => (k.endReview c i).applySealing i
  | _ => k

/-- The reply of STOP: the state after it (R189). -/
def stopReply (k : Works) (c : Nat) : Reply := ⟨.ok, byte1 (k.chan c).state.code⟩

/-- STOP at its owner (R76): a CLOSED channel is left alone with OK. -/
def stopAnswer (m : Message) (k : Works) : Reply × Works :=
  match channelTargetSized m k 0 with
  | .error st => (refuse st, k)
  | .ok c =>
    if (k.chan c).state = .closed then (stopReply k c, k)
    else
      match k.dictationLetter c with
      | .error st => (refuse st, k)
      | .ok i => (stopReply (k.stopChan c i) c, k.stopChan c i)

/-- STOP (R82 to R84). -/
def execReqStop (s : State) : Host.Outcome State Fault Refusal := s.carryOut 0x21#8 (onWorks stopAnswer)

/-! ### WIND (R85, R86) -/

/-- Check 5 of R76 for WIND: a mark index names a mark of the table. -/
def Letter.windFits (l : Letter) : WindTarget → Bool
  | .toMark i => decide (0 ≤ i) && decide (i < (l.marks.length : Int))
  | _ => true

/-- The position aimed at, without limit, from the cursor (R85). A mark is one of the table `marks`, that of the letter when
the request is taken (R60, log 14). -/
def Letter.windAim (l : Letter) (marks : List Mark) : WindTarget → Int
  | .relative n => (l.cursor : Int) + n
  | .absolute p => p
  | .toStart => (l.sealB : Int)
  | .toEnd => (l.length : Int)
  | .toMark i => (((marks[i.toNat]?).map Mark.pos).getD l.cursor : Nat)

/-- A position limited to a range, with whether it lay outside. -/
def clampInt (lo hi : Nat) (v : Int) : Nat × Bool :=
  if v < (lo : Int) then (lo, true) else if (hi : Int) < v then (hi, true) else (v.toNat, false)

/-- The cursor is set, and sealing follows (R48, R85). A cursor that stays changes nothing. -/
def Works.moveCursor (k : Works) (i p : Nat) : Works :=
  if (k.letter i).cursor = p then k else (k.modLetter i fun l => { l with cursor := p }).applySealing i

/-- The wind of letter `i` from its cursor: the reply with the new cursor, and the works (R85). -/
def Works.windFrom (k : Works) (i : Nat) (marks : List Mark) (t : WindTarget) : Reply × Works :=
  let l := k.letter i
  let w := clampInt l.sealB l.length (l.windAim marks t)
  (⟨okOrClamped w.2, byte3 w.1⟩, k.moveCursor i w.1)

/-- WIND past its checks (R86): a review is ended first, which sets the cursor to the play point and seals (R48). -/
def Works.wind (k : Works) (c i : Nat) (t : WindTarget) : Reply × Works :=
  let marks := (k.letter i).marks
  match (k.chan c).state with
  | .ready => k.windFrom i marks t
  | .reviewing => ((k.endReview c i).applySealing i).windFrom i marks t
  | _ => (refuse .busy, k)

/-- WIND at its owner (R76). -/
def windAnswer (m : Message) (k : Works) : Reply × Works :=
  match dictationChecks m k with
  | .error st => (refuse st, k)
  | .ok (c, i) =>
    match windBody m.body with
    | none => (refuse .badField, k)
    | some t => if (k.letter i).windFits t then k.wind c i t else (refuse .badField, k)

/-- WIND (R85, R86). -/
def execReqWind (s : State) : Host.Outcome State Fault Refusal := s.carryOut 0x22#8 (onWorks windAnswer)

/-! ### REVIEW (R72, R73, R87) -/

/-- The stop point of a review from the letter's cursor, and whether it was limited (R72). -/
def Letter.stopPoint (l : Letter) : StopOption → Nat × Bool
  | .atEnd => (l.length, false)
  | .atPosition p => clampNat l.cursor l.length p
  | .nextMark => (((l.marks.find? fun m => decide (l.cursor < m.pos)).map Mark.pos).getD l.length, false)

/-- A review of a READY channel begins, or ends at once with STOP_REACHED (R73, R87). -/
def Works.beginReview (k : Works) (c i stop : Nat) : Works :=
  if stop = (k.letter i).cursor then k.raise .stopReached c stop else (k.enterReview c i stop).grantIfIdle

/-- REVIEW past its checks (R87). -/
def Works.review (k : Works) (c i : Nat) (o : StopOption) : Reply × Works :=
  match (k.chan c).state with
  | .ready =>
    let stop := (k.letter i).stopPoint o
    (⟨okOrClamped stop.2, byte3 stop.1⟩, k.beginReview c i stop.1)
  | _ => (refuse .busy, k)

/-- REVIEW at its owner (R76). -/
def reviewAnswer (m : Message) (k : Works) : Reply × Works :=
  match dictationChecks m k with
  | .error st => (refuse st, k)
  | .ok (c, i) =>
    match reviewBody m.body with
    | none => (refuse .badField, k)
    | some o => k.review c i o

/-- REVIEW (R87). -/
def execReqReview (s : State) : Host.Outcome State Fault Refusal := s.carryOut 0x23#8 (onWorks reviewAnswer)

end Sys2Proof.Machine
end

