-- ==== Sys2Proof/Machine/Marks.lean ====
section
/-! DEFINITION. The mark requests (04_marks_and_stop_points.md, R62 to R71): MARK, UNMARK, MARKLIST. -/

namespace Sys2Proof.Machine

/-! ### MARK (R62 to R65) -/

/-- The capture position (R63): the play point of a REVIEWING channel, otherwise the cursor, which is the write point. -/
def Works.capturePoint (k : Works) (c i : Nat) : Nat :=
  match (k.chan c).state with
  | .reviewing => (k.chan c).playPoint.getD (k.letter i).cursor
  | _ => (k.letter i).cursor

/-- The works once the held frames of a RECORDING channel are released as pause, as checks 6 and 7 read them (R31, R62). -/
def Works.settled (k : Works) (c : Nat) : Works :=
  match (k.chan c).state with
  | .recording => k.releaseHeld c
  | _ => k

/-- Check 6 (R62): no room for a new mark. -/
def Letter.marksFull (l : Letter) (kind : MarkKind) (p : Nat) : Bool :=
  decide (Config.markCount ≤ l.marks.length) && !l.hasMark kind p

/-- The growing run ends at a capture in RECORDING (R27, R64). -/
def Channel.endGrowth (ch : Channel) : Channel :=
  match ch.state with
  | .recording => { ch with det := { ch.det with growing := none } }
  | _ => ch

/-- The mark joins the table or takes the new label (R64, steps 1 and 2). -/
def Letter.withMark (l : Letter) (kind : MarkKind) (label : BitVec 16) (p : Nat) : Letter :=
  { l with marks := l.captureMark kind label p }

/-- The run split takes an entry of the pool (R64, step 3; R129). -/
def Works.splitAt (k : Works) (i : Nat) (edit : List Entry) : Works :=
  { k.modLetter i fun l => { l with edit := edit } with
    freeEntries := k.freeEntries - 1, nextEntry := k.nextEntry + 1 }.entriesTaken

/-- A capture at position `p` (R64): after a split, sealing is applied. -/
def Works.capture (k : Works) (c i : Nat) (kind : MarkKind) (label : BitVec 16) (p : Nat) : Works :=
  let k1 := (k.modLetter i fun l => l.withMark kind label p).modChan c Channel.endGrowth
  match (k.letter i).splitRun p k.nextEntry with
  | some edit => (k1.splitAt i edit).applySealing i
  | none => k1

/-- MARK past checks 1 to 5 (R62): `k` as it is for a refusal, and settled for the capture. The reply's index is that of the
table before the sealing that follows a split (log 15). Check 6 counts the 16 marks of the settled table, after the sealing
that the release of held frames brings: the model's choice (log 33). -/
def Works.mark (k : Works) (c i : Nat) (kind : MarkKind) (label : BitVec 16) : Reply × Works :=
  let k1 := k.settled c
  let l := k1.letter i
  let p := k1.capturePoint c i
  if l.marksFull kind p then (refuse .full, k.modLetter i fun l => { l with overflow := true })
  else if (l.splitRun p k1.nextEntry).isSome && decide (k1.freeEntries = 0) then (refuse .poolEmpty, k)
  else (⟨.ok, byte1 (markIndex kind p (l.captureMark kind label p)) ++ byte3 p⟩, k1.capture c i kind label p)

/-- MARK at its owner (R62). -/
def markAnswer (m : Message) (k : Works) : Reply × Works :=
  match dictationChecks m k with
  | .error st => (refuse st, k)
  | .ok (c, i) =>
    match markBody m.body with
    | none => (refuse .badField, k)
    | some (kind, label) => k.mark c i kind label

/-- MARK (R62 to R65). -/
def execReqMark (s : State) : Host.Outcome State Fault Refusal := s.carryOut 0x24#8 (onWorks markAnswer)

/-! ### UNMARK (R70) -/

/-- UNMARK's index, when the body holds one that names a mark (R70). -/
def unmarkIndex (body : List Byte) (marks : List Mark) : Option Nat :=
  match body with
  | [b] => if b.toNat < marks.length then some b.toNat else none
  | _ => none

/-- The mark with an index leaves the table (R70). -/
def Letter.withoutMark (l : Letter) (n : Nat) : Letter := { l with marks := l.marks.eraseIdx n }

/-- UNMARK at its owner (R70). -/
def unmarkAnswer (m : Message) (k : Works) : Reply × Works :=
  match dictationChecks m k with
  | .error st => (refuse st, k)
  | .ok (_, i) =>
    match unmarkIndex m.body (k.letter i).marks with
    | none => (refuse .badField, k)
    | some n => (⟨.ok, []⟩, k.modLetter i fun l => l.withoutMark n)

/-- UNMARK (R70). -/
def execReqUnmark (s : State) : Host.Outcome State Fault Refusal := s.carryOut 0x25#8 (onWorks unmarkAnswer)

/-! ### MARKLIST (R71) -/

/-- A mark of a MARKLIST reply with its index (R189). -/
def markEntry (n : Nat) (m : Mark) : List Byte := byte1 n ++ byte1 m.kind.code ++ byte2 m.label.toNat ++ byte3 m.pos

/-- The body of a MARKLIST reply (R71, R189). -/
def markListBody (l : Letter) : List Byte :=
  byte1 l.marks.length ++ byte3 l.sealB ++ byte3 l.length ++ (l.marks.mapIdx markEntry).flatten

/-- MARKLIST at its owner (R71): its rule checks no field, so the body's length is checked after its target (R189). -/
def marklistAnswer (m : Message) (k : Works) : Reply × Works :=
  match channelTargetSized m k 0 with
  | .error st => (refuse st, k)
  | .ok c =>
    match k.dictationLetter c with
    | .error st => (refuse st, k)
    | .ok i => (⟨.ok, markListBody (k.letter i)⟩, k)

/-- MARKLIST (R71). -/
def execReqMarklist (s : State) : Host.Outcome State Fault Refusal := s.carryOut 0x26#8 (onWorks marklistAnswer)

end Sys2Proof.Machine
end

