-- ==== Sys2Proof/Machine/Port.lean ====
section
/-! DEFINITION. The line port and the line clock monitor (10_line_port_and_clock_monitor.md): BIND, syncs, the frame
boundary, reference ticks. -/

namespace Sys2Proof.Machine

/-! ### BIND (R169) -/

/-- The binding of channel `c`. -/
def Line.binding (l : Line) (c : Nat) : Binding := l.bindings.getD c Binding.unbound

/-- Whether a timeslot is bound to another channel, in the direction that `dir` reads (R169, checks 5 and 6). -/
def Line.heldElsewhere (l : Line) (c : Nat) (dir : Binding → Option Nat) (slot : Option Nat) : Bool :=
  slot.isSome && channelNumbers.any fun d => decide (d ≠ c) && decide (dir (l.binding d) = slot)

/-- BIND at its owner (R169). -/
def bindAnswer (m : Message) (s : State) : Reply × State :=
  match channelTarget m s.works with
  | .error st => (refuse st, s)
  | .ok c =>
    match bindBody m.body with
    | none => (refuse .badField, s)
    | some b =>
      if (s.works.chan c).state ≠ .closed then (refuse .busy, s)
      else if s.line.heldElsewhere c Binding.rx b.rx then (refuse .inUse, s)
      else if s.line.heldElsewhere c Binding.tx b.tx then (refuse .inUse, s)
      else
        (⟨.ok, [optByte b.rx, optByte b.tx]⟩, { s with line := { s.line with bindings := s.line.bindings.set c b } })

/-- BIND (R169). -/
def execReqBind (s : State) : Host.Outcome State Fault Refusal := s.carryOut 0x10#8 bindAnswer

/-! ### Syncs (R163 to R166) -/

/-- The sample that a receive timeslot gives at a sync: 0 when its bits had not all arrived, or no line frame was open
(R163). -/
def receivedSample (isOpen : Bool) (rx : List (Option Sample)) (slot : Nat) : Sample :=
  if isOpen then ((rx.getD slot none).getD 0#16) else 0#16

/-- What channel `c` is handed: the sample of its bound receive timeslot, or 0 (R165). -/
def Line.handed (l : Line) (rx : List (Option Sample)) (c : Nat) : Sample :=
  match (l.binding c).rx with
  | some slot => receivedSample l.frameOpen rx slot
  | none => 0#16

/-- A RECORDING channel whose capture has started keeps the sample; any other discards it (R165). -/
def Channel.takeSample (ch : Channel) (x : Sample) : Channel :=
  if ch.state = .recording ∧ ch.captureStarted then { ch with filling := ch.filling ++ [x] } else ch

/-- The port hands the receive samples to the channels (R163, R165). -/
def Works.handSamples (k : Works) (l : Line) (rx : List (Option Sample)) : Works :=
  { k with chans := k.chans.mapIdx fun c ch => ch.takeSample (l.handed rx c) }

/-- A sync at the monitor (R172): in ABSENT it begins a window and is not counted in it. -/
def Monitor.sync (m : Monitor) : Monitor :=
  match m.lock with
  | .absent => { m with ticks := 0, lock := .unlocked, windowTicks := 0, windowSyncs := 0 }
  | _ => { m with ticks := 0, windowSyncs := sat16 m.windowSyncs }

/-- What the port drives in transmit timeslot `slot`: the sample, numbered by the frame counter, of the output frame of the
channel bound to it (R166). -/
def driven (l : Line) (k : Works) (counter slot : Nat) : Option Sample :=
  match channelNumbers.find? fun c => decide ((l.binding c).tx = some slot) with
  | some c =>
    match (k.chan c).output with
    | some f => f[counter]?
    | none => none
  | none => none

/-- The transmit timeslots of the line frame that a sync opens (R163, R166). -/
def Line.drive (l : Line) (k : Works) (counter : Nat) : Line :=
  { l with frameCounter := counter, frameOpen := true,
           hdx := (List.range Config.timeslotCount).map (driven l k counter) }

/-- One sync of a part that is not held (R163, R164, R172): samples are handed over, the frame counter goes up by 1, its
wrap from 159 to 0 is the frame boundary, and the line frame opened is driven. -/
def State.syncOnce (s : State) (rx : List (Option Sample)) : State :=
  let m := s.monitor.sync
  let k1 := s.works.handSamples s.line rx
  let counter := (s.line.frameCounter + 1) % Config.frameSamples
  let k2 := if counter = 0 then k1.boundary (decide (m.lock = .locked)) else k1
  { s with monitor := m, works := k2, line := s.line.drive k2 counter }

/-- SYNC (R163): the sync at which the counter wraps carries the frame boundary with it (R164, log 2). -/
def execSync (rx : List (Option Sample)) (s : State) : Host.Outcome State Fault Refusal :=
  if s.resetAsserted then .next s else .next (s.syncOnce rx)

/-- FRAME_BOUNDARY (R164): the sync at which the frame counter wraps from 159 to 0; at any other count no boundary occurs
(log 1, log 2). -/
def execFrameBoundary (rx : List (Option Sample)) (s : State) : Host.Outcome State Fault Refusal :=
  if s.resetAsserted then .next s
  else if s.line.frameCounter + 1 = Config.frameSamples then .next (s.syncOnce rx)
  else .next s

/-! ### Reference ticks (R172 to R174) -/

/-- The monitor enters ABSENT: the window is abandoned without being judged (R172). -/
def Monitor.loseSyncs (m : Monitor) : Monitor :=
  { m with lock := .absent, windowTicks := 0, windowSyncs := 0, good := 0 }

/-- The drift of a window (R173). -/
def Monitor.drift (m : Monitor) : Int := (m.windowSyncs : Int) - 8000

/-- Whether a window is good (R173). -/
def Monitor.isGood (m : Monitor) : Bool := decide (m.drift.natAbs ≤ m.tolerance)

/-- The end of a window (R173, R174): maximum drift, FAST and SLOW, the lock state, and a new window. -/
def Monitor.endWindow (m : Monitor) : Monitor :=
  let good := if m.isGood then min (m.good + 1) 2 else 0
  { m with maxDrift := max m.maxDrift m.drift.natAbs, fast := m.fast || decide ((m.tolerance : Int) < m.drift),
           slow := m.slow || decide (m.drift < -(m.tolerance : Int)), good := good,
           lock := if good = 2 then .locked else .unlocked, windowTicks := 0, windowSyncs := 0 }

/-- A tick without a sync is counted up to 4 (R172). -/
def Monitor.countTick (m : Monitor) : Monitor := { m with ticks := min (m.ticks + 1) 4 }

/-- A drift as an event detail, a 32-bit two's-complement value (R187). -/
def driftDetail (d : Int) : BitVec 32 := BitVec.ofInt 32 d

/-- The event of a window end (R174). -/
def Works.windowEvent (k : Works) (before after : Lock) (drift : Int) : Works :=
  if before = .unlocked ∧ after = .locked then k.raiseDevice .lineLocked (driftDetail drift)
  else if before = .locked ∧ after = .unlocked then k.raiseDevice .lineLost (driftDetail drift)
  else k

/-- The line frame is long over and drives nothing, four ticks or more after its sync (R163, R168, log 19), or after a restart
that was made since: the model's choice (log 37). -/
def Line.lapse (l : Line) : Line := { l with frameOpen := false, hdx := undriven }

/-- A tick at which the monitor goes on to its window (R173). -/
def State.windowTick (s : State) (m : Monitor) : State :=
  let m1 := { m with windowTicks := m.windowTicks + 1 }
  if 8000 ≤ m1.windowTicks then
    let m2 := m1.endWindow
    { s with monitor := m2, works := s.works.windowEvent m1.lock m2.lock m1.drift }
  else { s with monitor := m1 }

/-- The monitor enters ABSENT at a tick; LINE_LOST with detail 0 when it was LOCKED (R172, R174). -/
def State.absence (s : State) (m : Monitor) : State :=
  { s with monitor := m.loseSyncs, line := s.line.lapse,
           works := if m.lock = .locked then s.works.raiseDevice .lineLost 0#32 else s.works }

/-- One reference tick of a part that is not held (R172, R173). A tick that is both the fourth without a sync and the last
of its window abandons the window (R173, log 25). The line frame lapses when the ticks since sync come to 4, which a restart
sets to 0 (R171): the model's choice (log 37). -/
def State.tickOnce (s : State) : State :=
  let m := s.monitor.countTick
  match m.lock with
  | .absent => if m.ticks = 4 then { s with monitor := m, line := s.line.lapse } else { s with monitor := m }
  | _ => if m.ticks = 4 then s.absence m else s.windowTick m

/-- REFERENCE_TICK (R172, R173); a fourth tick without a sync carries the absence with it, and an 8000th tick of a window
its end (log 2). -/
def execReferenceTick (s : State) : Host.Outcome State Fault Refusal :=
  if s.resetAsserted then .next s else .next s.tickOnce

/-- Whether the next tick brings the ticks since sync to 4 in UNLOCKED or LOCKED (R172). -/
def Monitor.absenceNext (m : Monitor) : Bool := decide (m.lock ≠ .absent) && decide (3 ≤ m.ticks)

/-- Whether the next tick ends the window (R173). -/
def Monitor.windowEndNext (m : Monitor) : Bool :=
  decide (m.lock ≠ .absent) && decide (m.ticks < 3) && decide (7999 ≤ m.windowTicks)

/-- SYNC_ABSENCE (R172): the reference tick that is the fourth without a sync (log 1, log 2). -/
def execSyncAbsence (s : State) : Host.Outcome State Fault Refusal :=
  if !s.resetAsserted && s.monitor.absenceNext then .next s.tickOnce else .next s

/-- WINDOW_END (R173): the reference tick that is the 8000th of its window (log 1, log 2). -/
def execWindowEnd (s : State) : Host.Outcome State Fault Refusal :=
  if !s.resetAsserted && s.monitor.windowEndNext then .next s.tickOnce else .next s

end Sys2Proof.Machine
end

