-- ==== Sys2Proof/Machine/Starts.lean ====
section
/-! DEFINITION. Starts, the start-up scan and the making of a restart (12_start_up_and_restart.md; R122 to R127). -/

namespace Sys2Proof.Machine

/-- The values of power-on and the reset line (R191, steps 1 to 4), for a part whose factory defect list stays. -/
def State.startWith (s : State) (straps : Straps) (cause : Cause) : State :=
  { s with lastCause := cause, link := Link.start (LinkRate.ofStraps straps), line := Line.start,
           monitor := Monitor.start 2, works := Works.start s.works.factory s.works.freeDraws }

/-- POWER_ON (R191). What the slots hold then is the model's choice (log 10). While the reset line is asserted the part stays held (log 18). -/
def execPowerOn (straps : Straps) (s : State) : Host.Outcome State Fault Refusal :=
  .next { s.startWith straps .powerOn with store := Store.blank }

/-- What the assertion of the reset line drops (R167, R191): requests and replies in flight, a RESTART taken, the job in
service and every output frame. -/
def State.dropInFlight (s : State) : State :=
  { s with link := { s.link with rx := [], tx := [], receiver := .hunting, restart := none },
           line := { s.line with hdx := undriven }, works := { s.works.endOutputs with job := none } }

/-- RESET_ASSERTED (R191). -/
def execResetAsserted (s : State) : Host.Outcome State Fault Refusal :=
  .next { s.dropInFlight with resetAsserted := true }

/-- RESET_LINE (R191): the reset line is released. -/
def execResetLine (straps : Straps) (s : State) : Host.Outcome State Fault Refusal :=
  .next { s.startWith straps .resetLine with resetAsserted := false }

/-! ### The scan -/

/-- Whether the scan of a part that is not held is in a state (R122, R191). -/
def State.scanIn (s : State) (st : Startup) : Bool := !s.resetAsserted && decide (s.works.startup = st)

/-- The factory defect list as FACTORY entries (R123). -/
def factoryDefects (slots : List Nat) : List Defect := slots.map fun n => ⟨n, .factory⟩

/-- LOADING_END (R123). -/
def execLoadingEnd (s : State) : Host.Outcome State Fault Refusal :=
  if s.scanIn .loading then
    .next { s with works := { s.works with startup := .writing, defects := factoryDefects s.works.factory } }
  else .next s

/-- WRITING_END (R125): every slot not in the table has been written with its pattern words. -/
def execWritingEnd (s : State) : Host.Outcome State Fault Refusal :=
  if s.scanIn .writing then
    .next { s with store := s.store.writePattern (s.works.defects.map Defect.slot),
                   works := { s.works with startup := .checking, checked := 0, scanBad := [] } }
  else .next s

/-- Whether the defect table lists a slot. -/
def Works.listed (k : Works) (slot : Nat) : Bool := k.defects.any fun d => decide (d.slot = slot)

/-- The slots read back as CHECKING goes on to slot `upTo` (R126): those of WRITING, whatever has been retired since. -/
def Works.readBetween (k : Works) (upTo : Nat) : List Nat :=
  slotNumbers.filter fun n => decide (k.checked ≤ n) && decide (n < upTo) && !k.listed n

/-- Those of them that mismatch, in ascending order; the sequence is run over the same slots as in WRITING (R126). -/
def Works.mismatched (k : Works) (st : Store) (errs : List CellError) (upTo : Nat) : List Nat :=
  (k.readBetween upTo).filter (st.mismatches errs k.factory)

/-- Mismatching slots retire with source SCAN as CHECKING goes on to slot `upTo` (R119, R126). -/
def Works.checkTo (k : Works) (st : Store) (errs : List CellError) (upTo : Nat) : Works :=
  let bad := k.mismatched st errs upTo
  { bad.foldl (fun acc n => acc.retire n .scan) k with
    checked := max k.checked upTo, scanBad := k.scanBad ++ bad }

/-- The slots not retired, in ascending order (R127). -/
def Works.goodSlots (k : Works) : List Nat := slotNumbers.filter fun n => !k.scanBad.contains n && !k.listed n

/-- The end of CHECKING: the scan ends DONE or FAILED (R127). -/
def Works.endScan (k : Works) (cause : Cause) : Works :=
  if k.retired ≤ Config.maxRetired then
    { k with startup := .done, freePool := k.goodSlots, slotArmed := true, entryArmed := true, checked := 0,
             scanBad := [] }.raiseDevice .startDone (BitVec.ofNat 32 cause.code)
  else { k with startup := .failed, freePool := [], checked := 0, scanBad := [] }

/-- CHECKING at the works: it ends when no slot of WRITING is left to read (R126, R127). -/
def Works.check (k : Works) (st : Store) (errs : List CellError) (cause : Cause) (upTo : Nat) : Works :=
  let k1 := k.checkTo st errs upTo
  if (k1.readBetween Config.slotCount).isEmpty then k1.endScan cause else k1

/-- CHECKING_END (R126, R127, R194), reached through the slots below it (log 31). -/
def execCheckingEnd (got : ReadBack) (s : State) : Host.Outcome State Fault Refusal :=
  if s.scanIn .checking then .next { s with works := s.works.check s.store got.errs s.lastCause got.upTo } else .next s

/-! ### Making a restart (R193) -/

/-- The link once a restart is made: every reply has been sent, the queues are empty, the counts 0, the receiver HUNTING;
rate and line are kept (R188). -/
def Link.restarted (l : Link) : Link := { Link.start l.rate with breakOn := l.breakOn }

/-- RESTART FULL is made (R193): the values of power-on, with the link rate kept and the straps not sampled. The open line
frame goes on as it is until the next sync (R163, R167). The ticks after which it lapses are counted anew, with the ticks
since sync (R171): the model's choice (log 37). -/
def State.makeFull (s : State) : State :=
  { s with lastCause := .restartFull, link := s.link.restarted,
           line := { Line.start with hdx := s.line.hdx, frameOpen := s.line.frameOpen }, monitor := Monitor.start 2,
           works := Works.start s.works.factory s.works.freeDraws }

/-- A channel after RESTART KEEP: its settings in force are kept (R14, R18, R74, R96). -/
def Channel.restarted (ch : Channel) : Channel := { Channel.initial with settings := ch.settings }

/-- A PENDING entry becomes a LOST run of count 1 in place (R59). -/
def Entry.settled (e : Entry) : Entry := if e.isPending then { e with body := .run .lost 1 } else e

/-- A letter after RESTART KEEP (R59). -/
def Letter.restarted (l : Letter) : Letter :=
  { l with edit := l.edit.map Entry.settled, channel := none,
           state := if l.state = .attached then .detached else l.state }

/-- What RESTART KEEP does at the works (R193, steps 1 to 6 without START_DONE). -/
def Works.restarted (k : Works) : Works :=
  let feeds := k.chans.flatMap Channel.feed
  { k with job := none, pointer := 0, chans := k.chans.map Channel.restarted, letters := k.letters.map Letter.restarted,
           freeEntries := k.freeEntries + feeds.length, freePool := k.freePool ++ feedSlotsOf feeds,
           events := [] }.rearmMarks

/-- RESTART KEEP is made with the scan DONE (R193). The line port is kept with its open line frame, and the ticks after
which that lapses are counted anew, with the ticks since sync (R171): the model's choice (log 37). -/
def State.makeKeep (s : State) : State :=
  { s with lastCause := .restartKeep, link := s.link.restarted, monitor := Monitor.start s.monitor.tolerance,
           works := s.works.restarted.raiseDevice .startDone (BitVec.ofNat 32 Cause.restartKeep.code) }

/-- Whether a RESTART of a kind is taken and not yet made by a part that is not held. -/
def State.restartTaken (s : State) (kind : RestartKind) : Bool :=
  !s.resetAsserted && decide (s.link.restart = some kind)

/-- RESTART_FULL (R193): made once the last byte of the reply has left LTXD. -/
def execRestartFull (s : State) : Host.Outcome State Fault Refusal :=
  if s.restartTaken .full then .next s.makeFull else .next s

/-- RESTART_KEEP (R193): outside DONE it is made as a RESTART FULL. -/
def execRestartKeep (s : State) : Host.Outcome State Fault Refusal :=
  if s.restartTaken .keep then
    (if s.works.startup = .done then .next s.makeKeep else .next s.makeFull)
  else .next s

end Sys2Proof.Machine
end

