-- ==== Sys2Proof/Machine/Takes.lean ====
section
/-! DEFINITION. TAKE (08_export.md, R131 to R140; R190). -/

namespace Sys2Proof.Machine

/-! ### Items (R132, R189) -/

/-- A SPEECH item. -/
def speechItemBytes (pos : Nat) (record : List Byte) : List Byte := byte1 1 ++ byte3 pos ++ record

/-- The item of a run: PAUSE, or LOST with its damaged flag clear. -/
def runItemBytes (pos : Nat) (kind : RunKind) (n : Nat) : List Byte :=
  match kind with
  | .pause => byte1 2 ++ byte3 pos ++ byte1 n
  | .lost => byte1 3 ++ byte3 pos ++ byte1 n ++ [flagByte false]

/-- The LOST item of a position whose frame the read of this TAKE lost (R137). -/
def damagedItemBytes (pos : Nat) : List Byte := byte1 3 ++ byte3 pos ++ byte1 1 ++ [flagByte true]

/-- A MARK item. -/
def markItemBytes (pos : Nat) (m : Mark) : List Byte :=
  byte1 4 ++ byte3 pos ++ byte1 m.kind.code ++ byte2 m.label.toNat

/-- An END item. -/
def endItemBytes (l : Letter) : List Byte := byte1 5 ++ byte3 l.length ++ byte2 l.squeezed

/-- The frame record at the front of a slot's bytes as TAKE sends it, its damaged flag and the unassigned bits of byte 0
clear (R132, R190, log 24). -/
def sentRecord (bytes : List Byte) : List Byte :=
  match bytes with
  | h :: rest => (h &&& 0x1F#8) :: rest.take ((headerWidth h).recordBytes - 1)
  | [] => []

/-! ### The stream (R133 to R139) -/

/-- The letter's taken point: where its sealed list starts (R135). -/
def Letter.takenPoint (l : Letter) : Nat := l.sealB - spanOf (l.sealedList.map SealedEntry.entry)

/-- One item taken: the works after it, its bytes, whether it is END. -/
structure Taken where
  works : Works
  item : List Byte
  last : Bool
  deriving DecidableEq, Repr

/-- An entry's record returns to the pool as its item is taken (R136 to R138). -/
def Works.returnEntry (k : Works) : Works := { k with freeEntries := k.freeEntries + 1 }

/-- A CODED SPEECH entry at the front of letter `i` is taken, given what the read of its slot returned (R136, R137). -/
def Works.takeSpeech (k : Works) (pos slot : Nat) (got : Option (List Byte)) : Taken :=
  match got with
  | some bytes =>
    ⟨{ k.returnEntry with freePool := k.freePool ++ [slot] }, speechItemBytes pos (sentRecord bytes), false⟩
  | none => ⟨k.returnEntry.retireAtRun slot, damagedItemBytes pos, false⟩

/-- The entry at the front of letter `i`'s sealed list is taken (R136 to R138). A sealed entry is never PENDING (R51). -/
def Works.takeEntry (k : Works) (st : Store) (errs : List CellError) (i : Nat) (e : Entry) (rest : List SealedEntry) :
    Except Fault (Option Taken) :=
  let pos := (k.letter i).takenPoint
  let k1 := k.modLetter i fun l => { l with sealedList := rest }
  match e.body with
  | .run kind n => .ok (some ⟨k1.returnEntry, runItemBytes pos kind n, false⟩)
  | .speech (some slot) =>
    match st.read errs slot with
    | .ok got => .ok (some (k1.takeSpeech pos slot got))
    | .error f => .error f
  | .speech none => .ok none

/-- The stream of a SEALING letter after its sealed list: its marks, then END (R133, R139). -/
def Works.takeEnding (k : Works) (i : Nat) : Taken :=
  let l := k.letter i
  match l.marks with
  | m :: ms => ⟨k.modLetter i fun l => { l with marks := ms }, markItemBytes m.pos m, false⟩
  | [] => ⟨k.modLetter i fun l => { l with endTaken := true }, endItemBytes l, true⟩

/-- The item at the front of letter `i`'s stream is taken; none when the stream is empty (R133, R134). -/
def Works.takeItem (k : Works) (st : Store) (errs : List CellError) (i : Nat) : Except Fault (Option Taken) :=
  let l := k.letter i
  match l.sealedList with
  | ⟨e, m :: ms⟩ :: rest =>
    .ok (some ⟨k.modLetter i fun l => { l with sealedList := ⟨e, ms⟩ :: rest }, markItemBytes l.takenPoint m, false⟩)
  | ⟨e, []⟩ :: rest => k.takeEntry st errs i e rest
  | [] => .ok (if l.state = .sealing then some (k.takeEnding i) else none)

/-- Up to `n` items from the front of the stream; END is the last (R134). -/
def Works.takeItems (st : Store) (errs : List CellError) (i : Nat) : Nat → Works → Except Fault (Works × List (List Byte))
  | 0, k => .ok (k, [])
  | n + 1, k =>
    match k.takeItem st errs i with
    | .error f => .error f
    | .ok none => .ok (k, [])
    | .ok (some t) =>
      if t.last then .ok (t.works, [t.item])
      else
        match Works.takeItems st errs i n t.works with
        | .error f => .error f
        | .ok (k1, items) => .ok (k1, t.item :: items)

/-! ### The TAKE (R131, R139, R140) -/

/-- The low marks compare their counts once after all the frees of one TAKE (R140). -/
def Works.afterFrees (k before : Works) : Works :=
  let k1 := if before.freePool.length < k.freePool.length then k.slotsFreed else k
  if before.freeEntries < k.freeEntries then k1.entriesFreed else k1

/-- At the end of the TAKE that placed its END item, the letter becomes FREE (R139). -/
def Works.freeIfEnded (k : Works) (i : Nat) : Works :=
  if (k.letter i).endTaken then k.modLetter i fun _ => Letter.freeRecord else k

/-- A TAKE that is taken from letter `i` with the count carried (R131, R134). -/
def Works.takeFrom (k : Works) (st : Store) (errs : List CellError) (i count : Nat) : Except Fault (Reply × Works) :=
  let limit := clampNat 1 8 count
  match Works.takeItems st errs i limit.1 k with
  | .error f => .error f
  | .ok (k1, items) =>
    .ok (⟨okOrClamped limit.2, byte1 items.length ++ items.flatten⟩, (k1.afterFrees k).freeIfEnded i)

/-- The job number and the item count of a TAKE body of five bytes (R189). -/
def takeCount (body : List Byte) : Option Nat :=
  match body with
  | [_, _, _, _, n] => some n.toNat
  | _ => none

/-- TAKE at its owner (R131, R190): a body of fewer than four bytes is refused before the job number is looked up, any
other wrong length after it. -/
def takeAnswer (errs : List CellError) (m : Message) (s : State) : Except Fault (Reply × Works) :=
  match deviceChecks true m s.works fun len => decide (4 ≤ len) with
  | some st => .ok (refuse st, s.works)
  | none =>
    match s.works.findJob (leValue (m.body.take 4)) with
    | none => .ok (refuse .badTarget, s.works)
    | some i =>
      match takeCount m.body with
      | none => .ok (refuse .badField, s.works)
      | some n => s.works.takeFrom s.store errs i n

/-- TAKE (R131 to R140). -/
def execReqTake (errs : List CellError) (s : State) : Host.Outcome State Fault Refusal :=
  match s.takeRequest fun b => decide (b = 0x30#8) with
  | none => .next s
  | some (m, s1) =>
    match takeAnswer errs m s1 with
    | .error f => .fault f
    | .ok (r, k) => .next ({ s1 with works := k }.placeReply m r)

end Sys2Proof.Machine
end

