-- ==== Sys2Proof/Machine/Transcription.lean ====
section
/-! DEFINITION. The transcription requests (09_transcription_playback.md, R144 to R149, R157 to R159): LOAD, UNLOAD, FEED,
PLAY, HALT, STEP. -/

namespace Sys2Proof.Machine

/-! ### Checks 3 and 4 of R144 -/

/-- FEED, PLAY and STEP at the channel's kind and state: NOT_OPEN or WRONG_KIND. -/
def Works.transcriptionRefusal (k : Works) (c : Nat) : Option Status :=
  if (k.chan c).state = .closed then some .notOpen
  else if (k.chan c).kind = .dictation then some .wrongKind
  else none

/-- The play point in a reply: empty while it is absent (R189). -/
def playBytes (p : Option Nat) : List Byte :=
  match p with
  | some n => byte3 n
  | none => []

/-! ### LOAD (R145) -/

/-- A channel opened for transcription (R142, R145). -/
def Channel.load (ch : Channel) : Channel :=
  { ch.openAs .transcription .stopped none with
    feed := [], expected := none, playPoint := none, prepPoint := none, stopPoint := none, endFed := false,
    outputBegun := false, outX := .empty, outY := .empty }

/-- The body of LOAD: the channel kind TRANSCRIPTION (R144, R189). -/
def loadFits (body : List Byte) : Bool := decide (body = [2#8])

/-- LOAD at its owner (R144, R145): BUSY for a dictation channel comes before the check of the field, BUSY for an open
transcription channel after it. -/
def loadAnswer (m : Message) (k : Works) : Reply × Works :=
  match channelTarget m k with
  | .error st => (refuse st, k)
  | .ok c =>
    if (k.chan c).state ≠ .closed ∧ (k.chan c).kind = .dictation then (refuse .busy, k)
    else if loadFits m.body then
      (if (k.chan c).state = .closed then (⟨.ok, []⟩, k.modChan c Channel.load) else (refuse .busy, k))
    else (refuse .badField, k)

/-- LOAD (R145). -/
def execReqLoad (s : State) : Host.Outcome State Fault Refusal := s.carryOut 0x31#8 (onWorks loadAnswer)

/-! ### UNLOAD (R146) -/

/-- A transcription channel that is closed: its queue and positions are gone. -/
def Channel.unload (ch : Channel) : Channel :=
  { ch.cutOff.close with feed := [], expected := none, playPoint := none, prepPoint := none }

/-- UNLOAD is taken (R146). -/
def Works.unloadChan (k : Works) (c : Nat) : Works :=
  let queue := (k.chan c).feed
  (k.modChan c Channel.unload).giveBack queue.length (feedSlotsOf queue)

/-- UNLOAD at its owner (R144, R146). -/
def unloadAnswer (m : Message) (k : Works) : Reply × Works :=
  match channelTargetSized m k 0 with
  | .error st => (refuse st, k)
  | .ok c =>
    if (k.chan c).state = .closed then (⟨.ok, []⟩, k)
    else if (k.chan c).kind = .dictation then (refuse .wrongKind, k)
    else (⟨.ok, []⟩, k.unloadChan c)

/-- UNLOAD (R146). -/
def execReqUnload (s : State) : Host.Outcome State Fault Refusal := s.carryOut 0x32#8 (onWorks unloadAnswer)

/-! ### FEED (R147 to R149) -/

/-- The position that the first record must carry, and for the first FEED after LOAD the one it carries (R148). -/
def Channel.feedStart (ch : Channel) (rs : List FedRecord) : Nat :=
  match ch.expected with
  | some x => x
  | none => (rs.head?.map FedRecord.pos).getD 0

/-- Whether a record follows an END record (R148, check 2). -/
def endFollowed : List FedRecord → Bool
  | [] => false
  | r :: rest => (r.isEnd && !rest.isEmpty) || endFollowed rest

/-- Whether the records carry the positions that lead on from `x` (R148, check 3). -/
def follows : Nat → List FedRecord → Bool
  | _, [] => true
  | x, r :: rest => decide (r.pos = x) && follows (x + r.span) rest

/-- The positions that records advance the expected position by (R147). -/
def spanFed (rs : List FedRecord) : Nat := (rs.map FedRecord.span).sum

/-- The frame records that take slots, in record order (R147). -/
def fedFrames (rs : List FedRecord) : List (List Byte) := rs.filterMap FedRecord.slotBytes

/-- Whether queue and pools have room for the records (R148, check 4). -/
def Works.hasRoom (k : Works) (c : Nat) (rs : List FedRecord) : Bool :=
  let ch := k.chan c
  decide (ch.feed.length + rs.length ≤ Config.feedRecords) &&
    decide ((feedSlotsOf ch.feed).length + (fedFrames rs).length ≤ Config.feedSlots) &&
    decide (rs.length ≤ k.freeEntries) && decide ((fedFrames rs).length ≤ k.freePool.length)

/-- Checks 2 to 4 of R148. -/
def Works.feedRefusal (k : Works) (c : Nat) (rs : List FedRecord) : Option Status :=
  let ch := k.chan c
  if ch.endFed || endFollowed rs then some .ended
  else if !follows (ch.feedStart rs) rs then some .gap
  else if !k.hasRoom c rs then some .full
  else none

/-- What the queue holds of a record that takes no slot (R147). -/
def FedRecord.held : FedRecord → FeedBody
  | .speech _ _ => .lost 1 true
  | .pause _ n => .pause n
  | .lost _ n d => .lost n d
  | .mark _ kind label => .mark kind label true
  | .endOf _ => .endOf

/-- The records as the queue holds them, with entry numbers from `id` on and slots from the pool's head (R149, step 1). -/
def queued : Nat → List Nat → List FedRecord → List FeedRec
  | _, _, [] => []
  | id, pool, r :: rest =>
    match r.slotBytes, pool with
    | some _, slot :: more => ⟨id, r.pos, .speech slot⟩ :: queued (id + 1) more rest
    | _, _ => ⟨id, r.pos, r.held⟩ :: queued (id + 1) pool rest

/-- The channel after a FEED (R149, steps 2 to 4; R160). -/
def Channel.feedWith (ch : Channel) (rs : List FedRecord) (added : List FeedRec) : Channel :=
  let start := ch.feedStart rs
  let first := ch.expected.isNone
  let moving := ch.state = .playing ∨ ch.state = .starved
  { ch with
    feed := ch.feed ++ added, expected := some (start + spanFed rs), endFed := ch.endFed || rs.any FedRecord.isEnd,
    playPoint := if first then some start else ch.playPoint,
    prepPoint := if first then (if moving then some start else ch.prepPoint) else ch.prepPoint }.prepareFeed

/-- The pools after a FEED, and the comparisons of the low marks (R149, steps 1 and 5). -/
def Works.takeForFeed (k : Works) (entries slots : Nat) : Works :=
  let k1 := { k with freeEntries := k.freeEntries - entries, nextEntry := k.nextEntry + entries,
                     freePool := k.freePool.drop slots }
  (if slots = 0 then k1 else k1.slotsTaken).entriesTaken

/-- FEED is taken, at the works (R149). -/
def Works.feedChan (k : Works) (c : Nat) (rs : List FedRecord) : Works :=
  let added := queued k.nextEntry k.freePool rs
  ((k.modChan c fun ch => ch.feedWith rs added).takeForFeed rs.length (fedFrames rs).length).grantIfIdle

/-- The slots that a FEED writes, each with its frame record (R113, R149). -/
def Works.feedWrites (k : Works) (rs : List FedRecord) : List (Nat × List Byte) := k.freePool.zip (fedFrames rs)

/-- FEED past its checks (R149). -/
def State.feed (s : State) (c : Nat) (rs : List FedRecord) : State :=
  { s with store := s.store.writeAll (s.works.feedWrites rs), works := s.works.feedChan c rs }

/-- FEED at its owner (R144, R148, R149). -/
def feedAnswer (m : Message) (s : State) : Reply × State :=
  match channelTarget m s.works with
  | .error st => (refuse st, s)
  | .ok c =>
    match s.works.transcriptionRefusal c with
    | some st => (refuse st, s)
    | none =>
      match feedBody m.body with
      | none => (refuse .badField, s)
      | some rs =>
        match s.works.feedRefusal c rs with
        | some st => (refuse st, s)
        | none => (⟨.ok, byte3 ((s.works.chan c).feedStart rs + spanFed rs)⟩, s.feed c rs)

/-- FEED (R149). -/
def execReqFeed (s : State) : Host.Outcome State Fault Refusal := s.carryOut 0x33#8 feedAnswer

/-! ### PLAY (R157) -/

/-- The play point after the backspace (R157, step 1). -/
def Channel.backspaced (ch : Channel) (on : Bool) : Option Nat :=
  match ch.playPoint, ch.retainedStart with
  | some p, some r => some (if on then p - min ch.settings.backspace (p - r) else p)
  | p, _ => p

/-- The play point moves back, and the marks passed are armed again (R157, R159). -/
def Channel.movePlay (ch : Channel) (target : Nat) : Channel :=
  match ch.playPoint with
  | some old => { ch with playPoint := some target, feed := rearm target old ch.feed }
  | none => ch

/-- A channel that PLAY starts (R157). -/
def Channel.play (ch : Channel) (on : Bool) : Channel :=
  let moved := match ch.backspaced on with
    | some p => ch.movePlay p
    | none => ch
  { moved with state := .playing, prepPoint := moved.playPoint, outputBegun := false }.prepareFeed

/-- PLAY past its checks (R157). -/
def Works.play (k : Works) (c : Nat) (on : Bool) : Reply × Works :=
  match (k.chan c).state with
  | .playing => (refuse .busy, k)
  | .starved => (refuse .busy, k)
  | _ => (⟨.ok, playBytes ((k.chan c).backspaced on)⟩, (k.modChan c fun ch => ch.play on).grantIfIdle)

/-- PLAY at its owner (R144, R157). -/
def playAnswer (m : Message) (k : Works) : Reply × Works :=
  match channelTarget m k with
  | .error st => (refuse st, k)
  | .ok c =>
    match k.transcriptionRefusal c with
    | some st => (refuse st, k)
    | none =>
      match playBody m.body with
      | none => (refuse .badField, k)
      | some on => k.play c on

/-- PLAY (R157). -/
def execReqPlay (s : State) : Host.Outcome State Fault Refusal := s.carryOut 0x34#8 (onWorks playAnswer)

/-! ### HALT (R158) -/

/-- HALT past its checks (R158): no effect in STOPPED and ENDED. -/
def Works.haltChan (k : Works) (c : Nat) : Reply × Works :=
  match (k.chan c).state with
  | .playing => (⟨.ok, playBytes (k.chan c).playPoint⟩, k.modChan c Channel.halt)
  | .starved => (⟨.ok, playBytes (k.chan c).playPoint⟩, k.modChan c Channel.halt)
  | _ => (⟨.ok, []⟩, k)

/-- HALT at its owner (R144, R158). -/
def haltAnswer (m : Message) (k : Works) : Reply × Works :=
  match channelTargetSized m k 0 with
  | .error st => (refuse st, k)
  | .ok c =>
    if (k.chan c).state = .closed then (⟨.ok, []⟩, k)
    else if (k.chan c).kind = .dictation then (refuse .wrongKind, k)
    else k.haltChan c

/-- HALT (R158). -/
def execReqHalt (s : State) : Host.Outcome State Fault Refusal := s.carryOut 0x35#8 (onWorks haltAnswer)

/-! ### STEP (R159) -/

/-- The target of a STEP from play point `p`, limited to the retained start and the expected position (R159). -/
def stepTarget (p start stop : Nat) (n : Int) : Nat × Bool := clampInt start stop ((p : Int) + n)

/-- Leave ENDED (R159, step 6). -/
def Channel.leaveEnded (ch : Channel) : Channel :=
  match ch.state with
  | .ended => { ch with state := .stopped }
  | _ => ch

/-- STEP to a target (R159). -/
def Works.stepTo (k : Works) (c target : Nat) : Works :=
  let before := (k.chan c).unplayed
  let k1 := k.modChan c fun ch => { ch with generation := ch.generation + 1 }.movePlay target
  (((k1.freeTail c).compareFeedLow c before)).modChan c Channel.leaveEnded

/-- STEP past its checks (R159): before the first FEED it changes nothing. -/
def Works.stepChan (k : Works) (c : Nat) (n : Int) : Reply × Works :=
  let ch := k.chan c
  match ch.state with
  | .playing => (refuse .busy, k)
  | .starved => (refuse .busy, k)
  | _ =>
    match ch.playPoint, ch.retainedStart, ch.expected with
    | some p, some start, some stop =>
      let t := stepTarget p start stop n
      (⟨okOrClamped t.2, byte3 t.1⟩, k.stepTo c t.1)
    | _, _, _ => (⟨okOrClamped (decide (n ≠ 0)), []⟩, k)

/-- STEP at its owner (R144, R159): its rule checks no field, so the body's length is checked after its target (R189). -/
def stepAnswer (m : Message) (k : Works) : Reply × Works :=
  match channelTargetSized m k 4 with
  | .error st => (refuse st, k)
  | .ok c =>
    match k.transcriptionRefusal c with
    | some st => (refuse st, k)
    | none => k.stepChan c (leSigned m.body)

/-- STEP (R159). -/
def execReqStep (s : State) : Host.Outcome State Fault Refusal := s.carryOut 0x36#8 (onWorks stepAnswer)

end Sys2Proof.Machine
end

