-- ==== Sys2Proof/Machine/Dispatch.lean ====
section
/-! DEFINITION. One arm per command. -/

namespace Sys2Proof.Machine

/-- The effect of a command on everything but the queue. -/
def exec (i : Instr) (s : State) : Host.Outcome State Fault Refusal :=
  match i with
  | .powerOn straps => Sys2Proof.Machine.execPowerOn straps s
  | .resetAsserted => Sys2Proof.Machine.execResetAsserted s
  | .resetLine straps => Sys2Proof.Machine.execResetLine straps s
  | .loadingEnd => Sys2Proof.Machine.execLoadingEnd s
  | .writingEnd => Sys2Proof.Machine.execWritingEnd s
  | .checkingEnd got => Sys2Proof.Machine.execCheckingEnd got s
  | .framingError => Sys2Proof.Machine.execFramingError s
  | .lineBreak => Sys2Proof.Machine.execLineBreak s
  | .messageReceived chars => Sys2Proof.Machine.execMessageReceived chars s
  | .reqUnknownKind => Sys2Proof.Machine.execReqUnknownKind s
  | .reqIdentify => Sys2Proof.Machine.execReqIdentify s
  | .reqStatus => Sys2Proof.Machine.execReqStatus s
  | .reqConfigure => Sys2Proof.Machine.execReqConfigure s
  | .reqPoll => Sys2Proof.Machine.execReqPoll s
  | .reqDefects => Sys2Proof.Machine.execReqDefects s
  | .reqRestart => Sys2Proof.Machine.execReqRestart s
  | .restartFull => Sys2Proof.Machine.execRestartFull s
  | .restartKeep => Sys2Proof.Machine.execRestartKeep s
  | .reqSet => Sys2Proof.Machine.execReqSet s
  | .reqBind => Sys2Proof.Machine.execReqBind s
  | .reqOpen => Sys2Proof.Machine.execReqOpen s
  | .reqAttach => Sys2Proof.Machine.execReqAttach s
  | .reqDetach => Sys2Proof.Machine.execReqDetach s
  | .reqEnd => Sys2Proof.Machine.execReqEnd s
  | .reqDiscard => Sys2Proof.Machine.execReqDiscard s
  | .reqTruncate => Sys2Proof.Machine.execReqTruncate s
  | .reqRecord => Sys2Proof.Machine.execReqRecord s
  | .reqStop => Sys2Proof.Machine.execReqStop s
  | .reqWind => Sys2Proof.Machine.execReqWind s
  | .reqReview => Sys2Proof.Machine.execReqReview s
  | .reqMark => Sys2Proof.Machine.execReqMark s
  | .reqUnmark => Sys2Proof.Machine.execReqUnmark s
  | .reqMarklist => Sys2Proof.Machine.execReqMarklist s
  | .reqTake errs => Sys2Proof.Machine.execReqTake errs s
  | .reqLoad => Sys2Proof.Machine.execReqLoad s
  | .reqUnload => Sys2Proof.Machine.execReqUnload s
  | .reqFeed => Sys2Proof.Machine.execReqFeed s
  | .reqPlay => Sys2Proof.Machine.execReqPlay s
  | .reqHalt => Sys2Proof.Machine.execReqHalt s
  | .reqStep => Sys2Proof.Machine.execReqStep s
  | .sync rx => Sys2Proof.Machine.execSync rx s
  | .frameBoundary rx => Sys2Proof.Machine.execFrameBoundary rx s
  | .encodeCompletion => Sys2Proof.Machine.execEncodeCompletion s
  | .decodeCompletion errs => Sys2Proof.Machine.execDecodeCompletion errs s
  | .referenceTick => Sys2Proof.Machine.execReferenceTick s
  | .syncAbsence => Sys2Proof.Machine.execSyncAbsence s
  | .windowEnd => Sys2Proof.Machine.execWindowEnd s
  | .leadByteReceived char => Sys2Proof.Machine.execLeadByteReceived char s
  | .messageLengthReceived low high => Sys2Proof.Machine.execMessageLengthReceived low high s
  | .lineBreakEnd => Sys2Proof.Machine.execLineBreakEnd s

end Sys2Proof.Machine
end

