-- ==== Sys2Proof/Machine/Step.lean ====
section
/-! DEFINITION. One step: the command at the front of the queue, or one byte on LTXD while no command waits. -/

namespace Sys2Proof.Machine

/-- While no command waits, LTXD sends the oldest byte of the transmit queue, unless the part is held (R180, R191, log 5). -/
def State.idle (s : State) : State :=
  if s.resetAsserted then s else { s with link := { s.link with tx := s.link.tx.drop 1 } }

/-- One step: the command at the front of the queue is carried out with the queue's rest. -/
def step (s : State) : Host.Outcome State Fault Refusal :=
  match s.pending with
  | c :: rest => exec c { s with pending := rest }
  | [] => .next s.idle

/-- The state with the command that a word spells at the front of its queue; no word spells one (Sys2Proof/Decode.lean). -/
def State.withFetchWord (s : State) (nbits w : Nat) : State :=
  match decodeTableWord nbits w with
  | some c => { s with pending := c :: s.pending }
  | none => s

end Sys2Proof.Machine
end

