-- ==== Sys2Proof/Safety.lean ====
section
/-! DEFINITION. What a good state is: the relations that the spec says hold at every moment, and the words in which the
statements about requests are made. -/

namespace Sys2Proof.Machine

/-! ### Ranges of registers -/

/-- Each link count is 0..255 (R179). -/
def Link.CountsFit (l : Link) : Prop := l.framing ≤ 255 ∧ l.overrun ≤ 255 ∧ l.discarded ≤ 255

/-- The frame counter is 0..159 (R164). -/
def Line.CounterFits (l : Line) : Prop := l.frameCounter < Config.frameSamples

/-- No two channels are bound to the same timeslot of one direction (R170). -/
def Line.Exclusive (l : Line) : Prop :=
  ∀ c d slot, c < Config.channelCount → d < Config.channelCount → c ≠ d →
    ¬((l.binding c).rx = some slot ∧ (l.binding d).rx = some slot) ∧
    ¬((l.binding c).tx = some slot ∧ (l.binding d).tx = some slot)

/-- The monitor's elements are in their ranges (R171). It is LOCKED exactly after two good windows in a row (R174), and in
ABSENT no window runs (R172). -/
def Monitor.Sound (m : Monitor) : Prop :=
  m.ticks ≤ 4 ∧ m.windowTicks < 8000 ∧ m.windowSyncs ≤ 65535 ∧ m.good ≤ 2 ∧ m.maxDrift ≤ 57535 ∧ m.tolerance ≤ 40 ∧
    (m.lock = .locked ↔ m.good = 2) ∧ (m.lock = .absent → m.windowTicks = 0 ∧ m.windowSyncs = 0)

/-- The pending flags stand once each in POLL order (R185, R187). -/
def Works.EventsOrdered (k : Works) : Prop := k.events.Pairwise fun e f => e.key < f.key

/-- No flag is pending during a scan and in a FAULTED part (R185, R186). -/
def Works.QuietWhileStarting (k : Works) : Prop := k.startup ≠ .done → k.events = []

/-! ### The entry pool (R35) -/

/-- The entries held in letters, edit lists and sealed lists together. -/
def Works.letterEntries (k : Works) : Nat := (k.letters.map Letter.entryCount).sum

/-- The entries held in feed queues. -/
def Works.feedEntries (k : Works) : Nat := (k.chans.map fun ch => ch.feed.length).sum

/-- The free entries, the entries held in letters and those held in feed queues add up to 12,288 (R35). -/
def Works.EntriesAddUp (k : Works) : Prop := k.freeEntries + k.letterEntries + k.feedEntries = Config.entryCount

/-- A letter record in order: a FREE one holds nothing (R33), a SEALING one has no editable entry (R48), and an END item
taken has freed its record (R59). -/
def Letter.Sound (l : Letter) : Prop :=
  (l.state = .free → l.edit = [] ∧ l.sealedList = []) ∧ (l.state = .sealing → l.edit = []) ∧ l.endTaken = false

/-- A channel in order: CLOSED exactly while it has no kind (R74), with a letter exactly while it is a dictation channel
(R75, R142), and with a feed queue only while it is a transcription channel (R142). -/
def Channel.Sound (ch : Channel) : Prop :=
  (ch.state = .closed ↔ ch.kind = .noKind) ∧ (ch.kind = .dictation ↔ ch.letter ≠ none) ∧
    (ch.kind ≠ .transcription → ch.feed = [])

/-- A channel names a letter exactly while that record is ATTACHED and names the channel (R34, R75). -/
def Works.LettersAttached (k : Works) : Prop :=
  ∀ c i, c < Config.channelCount →
    ((k.chan c).letter = some i ↔
      i < Config.letterCount ∧ (k.letter i).state = .attached ∧ (k.letter i).channel = some c)

/-- The letter that a job names exists. -/
def Job.Sound (j : Job) : Prop :=
  match j with
  | .encode _ i _ _ _ => i < Config.letterCount
  | .decode _ (.letter i) _ _ _ => i < Config.letterCount
  | .decode _ .feedQueue _ _ _ => True

/-- The accounting of R35 with what it rests on: twenty channels and 32 letter records (R33, R74), each in order, and
attached to one another in order. -/
def Works.Accounted (k : Works) : Prop :=
  k.chans.length = Config.channelCount ∧ k.letters.length = Config.letterCount ∧ (∀ ch ∈ k.chans, ch.Sound) ∧
    (∀ l ∈ k.letters, l.Sound) ∧ k.LettersAttached ∧ (∀ j, k.job = some j → j.Sound) ∧ k.EntriesAddUp

/-! ### The order within letters (R38, R39, R60, R61) -/

/-- Where entries that start at a position start, and where the last one ends (R38). -/
def startsFrom : Nat → List Entry → List Nat
  | s, [] => [s]
  | s, e :: es => s :: startsFrom (s + e.count) es

/-- A letter's own order: no entry is empty, the edit list runs from the seal boundary to the length (R38), seal boundary,
cursor and length stand in order (R39), what is sealed ends at the seal boundary (R38), and at most 16 marks stand in order
of position from the seal boundary to the length, each at the start of an entry of the edit list or at the length (R60,
R61). -/
def Letter.InOrder (l : Letter) : Prop :=
  (∀ e ∈ l.edit, 1 ≤ e.count) ∧ l.length = l.sealB + spanOf l.edit ∧ l.sealB ≤ l.cursor ∧ l.cursor ≤ l.length ∧
    l.length ≤ Config.maxLength ∧ spanOf (l.sealedList.map SealedEntry.entry) ≤ l.sealB ∧
    l.marks.Pairwise (fun m n => m.pos ≤ n.pos) ∧ (∀ m ∈ l.marks, l.sealB ≤ m.pos ∧ m.pos ≤ l.length) ∧
    l.marks.length ≤ Config.markCount ∧ ∀ m ∈ l.marks, m.pos ∈ startsFrom l.sealB l.edit

/-- The growing run of a channel: there is none outside RECORDING, and it ends at the write point (2.1, R27). -/
def Works.GrowsAtWritePoint (k : Works) (ch : Channel) : Prop :=
  (ch.state ≠ .recording → ch.det.growing = none) ∧
    ∀ i before e after, ch.letter = some i → (k.letter i).edit = before ++ e :: after → ch.det.growing = some e.id →
      (k.letter i).sealB + spanOf before + e.count = (k.letter i).cursor

/-- A review plays between its letter's cursor and its stop point (R87, R89). -/
def Works.ReviewsInOrder (k : Works) (ch : Channel) : Prop :=
  ch.state = .reviewing → ∃ i p stop, ch.letter = some i ∧ ch.playPoint = some p ∧ ch.stopPoint = some stop ∧
    (k.letter i).cursor ≤ p ∧ p < stop ∧ stop ≤ (k.letter i).length

/-- The numbers of the entries of edit lists. -/
def Works.editIds (k : Works) : List Nat := k.letters.flatMap fun l => l.edit.map Entry.id

/-- The frames of all capture pairs. -/
def Works.waitFrames (k : Works) : List WaitFrame := k.chans.flatMap Channel.capture

/-- An entry that a frame waits for is PENDING wherever it stands (R37, R81). -/
def Works.WaitsForPending (k : Works) (w : WaitFrame) : Prop :=
  w.entry < k.nextEntry ∧ ∀ l ∈ k.letters, ∀ e ∈ l.edit, e.id = w.entry → e.isPending = true

/-- The ENCODE job in service is that of a frame IN SERVICE in its channel's capture pair (R81, R102). -/
def Works.JobHasFrame (k : Works) : Prop :=
  ∀ c i entry width base, k.job = some (.encode c i entry width base) →
    ∃ w ∈ (k.chan c).capture, w.inService = true ∧ w.entry = entry

/-- Every letter in its order, with what that rests on: numbers of entries stand once each (log 11), growing runs end at
their write points, reviews play inside their letters, and frames wait for PENDING entries, each for its own. -/
def Works.LettersInOrder (k : Works) : Prop :=
  (∀ l ∈ k.letters, l.InOrder) ∧ k.editIds.Nodup ∧ (∀ id ∈ k.editIds, id < k.nextEntry) ∧
    (∀ ch ∈ k.chans, k.GrowsAtWritePoint ch ∧ k.ReviewsInOrder ch) ∧ (∀ w ∈ k.waitFrames, k.WaitsForPending w) ∧
    (k.waitFrames.map WaitFrame.entry).Nodup ∧ k.JobHasFrame

/-! ### The slots (R117, R118) -/

/-- The slots that letters and feed queues hold. -/
def Works.heldSlots (k : Works) : List Nat :=
  k.letters.flatMap Letter.slots ++ k.chans.flatMap fun ch => feedSlotsOf ch.feed

/-- The slots whose place is known: free, held, or listed as retired. -/
def Works.placedSlots (k : Works) : List Nat := k.freePool ++ k.heldSlots ++ k.defects.map Defect.slot

/-- Each frame that waits has its PENDING entry before the cursor of its channel's letter, while the channel is RECORDING or
DRAINING (R40, R81, R83). -/
def Works.FramesPlaced (k : Works) (ch : Channel) : Prop :=
  (ch.capture ≠ [] → ch.state = .recording ∨ ch.state = .draining) ∧
    ∀ w ∈ ch.capture, ∃ i before after, ch.letter = some i ∧
      (k.letter i).edit = before ++ ⟨w.entry, .speech none⟩ :: after ∧
      (k.letter i).sealB + spanOf before + 1 ≤ (k.letter i).cursor

/-- An ENCODE job works for the letter of its channel (R102). -/
def Works.JobHasLetter (k : Works) : Prop :=
  ∀ c i entry width base, k.job = some (.encode c i entry width base) → (k.chan c).letter = some i

/-- The records of a feed queue have numbers of their own (log 11). -/
def Works.FeedNumbered (k : Works) (ch : Channel) : Prop :=
  (ch.feed.map FeedRec.id).Nodup ∧ ∀ r ∈ ch.feed, r.id < k.nextEntry

/-- What the scan has retired is what it has listed and counted (R119, R123, R126); `scanBad` is the model's (log 31). -/
def Works.ScanAddsUp (k : Works) : Prop :=
  (k.startup = .loading ∨ k.startup = .writing → k.unlisted = 0) ∧
    (k.startup = .checking → k.scanBad.Nodup ∧ (∀ n ∈ k.scanBad, n < k.checked ∧ n < Config.slotCount) ∧
      k.unlisted = (k.scanBad.filter fun n => !k.listed n).length)

/-- The accounting of R117: the free count, the held slots and the retired slots add up to 8192 once the scan is DONE; no
slot stands in two places or twice in one; and outside DONE no slot is free and none is held. The factory list is as R118
gives it, and the rest is what the accounting rests on. -/
def Works.SlotsAddUp (k : Works) : Prop :=
  k.placedSlots.Nodup ∧ (∀ n ∈ k.placedSlots, n < Config.slotCount) ∧
    (k.startup = .done → k.placedSlots.length + k.unlisted = Config.slotCount) ∧
    (k.startup ≠ .done → k.freePool = [] ∧ k.heldSlots = []) ∧
    k.factory.Pairwise (· < ·) ∧ (∀ n ∈ k.factory, n < Config.slotCount) ∧ k.ScanAddsUp ∧
    (∀ ch ∈ k.chans, k.FramesPlaced ch ∧ k.FeedNumbered ch) ∧ k.JobHasLetter

/-! ### Room in tables and queues -/

/-- The defect table and the factory list keep to their sizes (R118), and each mark table to its 16 marks (R61). -/
def Works.TablesFit (k : Works) : Prop :=
  k.factory.length ≤ 32 ∧ k.defects.length ≤ Config.defectCount ∧ ∀ l ∈ k.letters, l.marks.length ≤ Config.markCount

/-- The messages received and what is reserved for the one being assembled fit the receive queue of 4096 bytes (R179), and
the replies the transmit queue of 2048 (R180). A message being assembled wants at least one more character. -/
def Link.QueuesFit (l : Link) : Prop :=
  (l.rx.map Message.size).sum + l.receiver.reserved ≤ Config.rxBytes ∧ l.tx.length ≤ Config.txBytes ∧
    ∀ left got ovr, l.receiver = .collecting left got ovr → 1 ≤ left

/-! ### The words of the statements -/

/-- The settings once everything staged has loaded (R94). -/
def Channel.loaded (ch : Channel) : Settings :=
  let old := ch.settings
  let new := ch.staged
  { width := new.width.getD old.width, quiet := new.quiet.getD old.quiet, hangover := new.hangover.getD old.hangover,
    onset := new.onset.getD old.onset, squeeze := new.squeeze.getD old.squeeze, window := new.window.getD old.window,
    priority := new.priority.getD old.priority, backspace := new.backspace.getD old.backspace,
    trim := new.trim.getD old.trim, feedLow := new.feedLow.getD old.feedLow,
    haltOnInstruction := new.haltOnInstruction.getD old.haltOnInstruction }

/-- A buffer that was SENDING is EMPTY once its frame has gone out (R88). -/
def OutBuf.sent (b : OutBuf) : OutBuf :=
  match b with
  | .sending _ => .empty
  | b => b

/-- The works once a new entry has been placed in letter `i` as a plan says, channel `c` being `ch` after it (R40): the
letter takes the list, the write point moves on, insert mode moves the marks beyond it (R66), the entries needed leave
their pool, what is replaced returns, and the low marks compare once (R128, R129). -/
def Works.placedAs (k : Works) (c i : Nat) (mode : RecMode) (p : Plan) (ch : Channel) : Works :=
  let l := k.letter i
  let marks : List Mark :=
    match mode with
    | .insert => l.marks.map fun m => if l.cursor < m.pos then { m with pos := m.pos + 1 } else m
    | .overwrite => l.marks
  let free := k.freeEntries - p.need
  let pool := k.freePool ++ p.freed
  let low := k.entryArmed && decide (free < k.entryMark)
  { k with
    letters := k.letters.set i
      { l with edit := p.edit, cursor := l.cursor + 1, length := if p.longer then l.length + 1 else l.length, marks := marks },
    chans := k.chans.set c ch, freeEntries := free, freePool := pool, nextEntry := k.nextEntry + 2,
    slotArmed := k.slotArmed || (decide (p.freed ≠ []) && decide (k.slotMark + 64 ≤ pool.length)),
    entryArmed := (k.entryArmed && !low) || (decide (p.need = 0) && decide (k.entryMark + 64 ≤ free)),
    events := if low ∧ k.startup = .done then putEvent ⟨.entriesLow, 255, 0, 0⟩ k.events else k.events }

/-- A channel whose recording span has ended at the length limit (R47, R82): held frames go, and it drains while a frame is
captured. -/
def Channel.spanEnded (ch : Channel) : Channel :=
  { ch with
    filling := [], captureStarted := false, recMode := none, pendingMode := none,
    det := { ch.det with growing := none, hold := [], loud := 0 }, state := if ch.capture = [] then .ready else .draining }

/-- A letter with frames counted as squeezed out (R26). -/
def Letter.squeezedBy (l : Letter) (frames : Nat) : Letter :=
  { l with squeezed := if frames = 0 then l.squeezed else min (l.squeezed + frames) 65535 }

/-- What a letter's stream holds: a mark or an entry at a position, or its end (R132, R133). -/
inductive Offer where
  | mark (pos : Nat) (m : Mark)
  | entry (pos : Nat) (e : Entry)
  | last
  deriving DecidableEq, Repr

/-- The stream of sealed entries from position `p` on: each entry's marks stand before it (R133). -/
def offersFrom : Nat → List SealedEntry → List Offer
  | _, [] => []
  | p, x :: rest => x.marks.map (Offer.mark p) ++ .entry p x.entry :: offersFrom (p + x.entry.count) rest

/-- The stream of a letter: its sealed list from its taken point on, and when it is SEALING its marks and its end (R133). -/
def Letter.stream (l : Letter) : List Offer :=
  offersFrom (l.sealB - (l.sealedList.map fun x => x.entry.count).sum) l.sealedList ++
    (if l.state = .sealing then (l.marks.map fun m => Offer.mark m.pos m) ++ [.last] else [])

/-- A sealed list once so many items of its stream have been taken (R134, R135). -/
def sealedAfter : Nat → List SealedEntry → List SealedEntry
  | 0, xs => xs
  | _ + 1, [] => []
  | n + 1, ⟨e, _ :: ms⟩ :: rest => sealedAfter n (⟨e, ms⟩ :: rest)
  | n + 1, ⟨_, []⟩ :: rest => sealedAfter n rest

/-- An item in bytes, given what the read of a SPEECH entry's slot returned, if it passed (R132, R136 to R139, R189). -/
def Offer.bytes (l : Letter) (read : Nat → Option (List Byte)) : Offer → List Byte
  | .mark p m => byte1 4 ++ byte3 p ++ byte1 m.kind.code ++ byte2 m.label.toNat
  | .entry p ⟨_, .run .pause n⟩ => byte1 2 ++ byte3 p ++ byte1 n
  | .entry p ⟨_, .run .lost n⟩ => byte1 3 ++ byte3 p ++ byte1 n ++ [0#8]
  | .entry p ⟨_, .speech (some slot)⟩ =>
    match read slot with
    | some bytes => byte1 1 ++ byte3 p ++ sentRecord bytes
    | none => byte1 3 ++ byte3 p ++ byte1 1 ++ [1#8]
  | .entry _ ⟨_, .speech none⟩ => []
  | .last => byte1 5 ++ byte3 l.length ++ byte2 l.squeezed

/-- The entry of an item. -/
def Offer.entry? : Offer → Option Entry
  | .entry _ e => some e
  | _ => none

/-- The pools once entries and slots have returned: slots join the tail of the free pool (R116), and a disarmed low mark is
armed when its count has come to the mark plus 64 (R128, R129). -/
def Works.given (k : Works) (entries : Nat) (slots : List Nat) : Works :=
  { k with
    freeEntries := k.freeEntries + entries, freePool := k.freePool ++ slots,
    slotArmed := k.slotArmed || (decide (slots ≠ []) && decide (k.slotMark + 64 ≤ k.freePool.length + slots.length)),
    entryArmed := k.entryArmed || (decide (entries ≠ 0) && decide (k.entryMark + 64 ≤ k.freeEntries + entries)) }

/-! ### Requests -/

/-- The controller takes requests, and `m` stands at the front of the receive queue (R180, R188, R191). -/
def State.AtFront (s : State) (m : Message) (rest : List Message) : Prop :=
  s.resetAsserted = false ∧ s.link.restart = none ∧ s.link.rx = m :: rest

/-- The state after a request: it has left the receive queue, its reply stands at the back of the transmit queue, and the
works are `k` (R180; log 4). -/
def State.answered (s : State) (m : Message) (rest : List Message) (r : Reply) (k : Works) : State :=
  { s with link := { s.link with rx := rest, tx := makeRoom s.link.tx ++ replyBytes m r }, works := k }

/-- A request of a kind that names a channel, in a part whose scan is DONE. -/
def Message.AsksChannel (m : Message) (kind : Byte) (c : Nat) (k : Works) : Prop :=
  m.kind = kind ∧ targetOf m.target = .channel c ∧ k.startup = .done

/-- A request of a kind that names the device, in a part whose scan is DONE. -/
def Message.AsksDevice (m : Message) (kind : Byte) (k : Works) : Prop :=
  m.kind = kind ∧ targetOf m.target = .device ∧ k.startup = .done

/-- A dictation channel in a state, with its letter (R75). -/
def Works.Dictates (k : Works) (c i : Nat) (st : ChanState) : Prop :=
  (k.chan c).state = st ∧ (k.chan c).kind = .dictation ∧ (k.chan c).letter = some i

/-- The output pair emptied, output cut off, the play generation up by 1 (R88, R90, R167). -/
def Channel.outputCut (ch : Channel) : Channel :=
  { ch with outX := .empty, outY := .empty, output := none, generation := ch.generation + 1 }

/-- The commands that are requests (R180). -/
def Instr.isRequest : Instr → Bool
  | .reqUnknownKind => true
  | .reqIdentify => true
  | .reqStatus => true
  | .reqConfigure => true
  | .reqPoll => true
  | .reqDefects => true
  | .reqRestart => true
  | .reqSet => true
  | .reqBind => true
  | .reqOpen => true
  | .reqAttach => true
  | .reqDetach => true
  | .reqEnd => true
  | .reqDiscard => true
  | .reqTruncate => true
  | .reqRecord => true
  | .reqStop => true
  | .reqWind => true
  | .reqReview => true
  | .reqMark => true
  | .reqUnmark => true
  | .reqMarklist => true
  | .reqTake _ => true
  | .reqLoad => true
  | .reqUnload => true
  | .reqFeed => true
  | .reqPlay => true
  | .reqHalt => true
  | .reqStep => true
  | _ => false

end Sys2Proof.Machine
end

