-- ==== Sys2Proof/Certificates/Slice0/Obligations.lean ====
section
/-! DEFINITION. The statements for the provers. -/

open Sys2Proof Sys2Proof.Machine

/-! ### Steps -/

/-- A step carries out the command at the front of the queue with the queue's rest. -/
def Obligations.StepTakesTheFrontCommand : Prop :=
  ∀ (c : Instr) (s : State) (rest : List Instr),
    step { s with pending := c :: rest } = exec c { s with pending := rest }

/-- While no command waits, LTXD sends the oldest byte of the transmit queue (R180), and a part that is held sends none
(R191). That a byte leaves at such a step is the model's choice (log 5). -/
def Obligations.EmptyQueueSendsOneByte : Prop :=
  ∀ s : State, s.pending = [] →
    step s = .next (if s.resetAsserted then s else { s with link := { s.link with tx := s.link.tx.tail } })

/-! ### Starts -/

/-- State.reset holds the start values that the spec gives (R14, R18, R35, R59, R74, R93, R96, R97, R115, R128, R129,
R164, R170, R171, R184, R185, R188, R191). -/
def Obligations.ResetHoldsTheStartValues : Prop :=
  let s := State.reset
  s.resetAsserted = false ∧ s.lastCause = .powerOn ∧
    s.link.receiver = .hunting ∧ s.link.rx = [] ∧ s.link.tx = [] ∧
    (s.link.framing, s.link.overrun, s.link.discarded) = (0, 0, 0) ∧
    s.line.frameCounter = 0 ∧ (∀ c, c < 20 → s.line.binding c = ⟨none, none⟩) ∧ s.line.hdx = List.replicate 32 none ∧
    s.monitor = ⟨.absent, 0, 0, 0, 0, false, false, 0, 2⟩ ∧
    s.works.startup = .loading ∧ s.works.letters.length = 32 ∧ (∀ l ∈ s.works.letters, l.state = .free) ∧
    s.works.chans.length = 20 ∧
    (∀ ch ∈ s.works.chans,
      ch.kind = .noKind ∧ ch.state = .closed ∧ ch.letter = none ∧ ch.capture = [] ∧ ch.filling = [] ∧
        ch.outX = .empty ∧ ch.outY = .empty ∧ ch.generation = 0 ∧ ch.carry = 0 ∧ ch.feed = [] ∧
        (ch.dropped, ch.overrun, ch.late) = (0, 0, 0) ∧ ch.staged = Staged.empty ∧
        (ch.det.phase, ch.det.quiet, ch.det.loud, ch.det.hold, ch.det.growing) = (.speech, 0, 0, [], none) ∧
        ch.settings = ⟨.standard, 600, 15, 1, 40, 9000, .normal, 75, 0, 100, false⟩) ∧
    s.works.freeEntries = 12288 ∧ s.works.freePool = [] ∧ s.works.defects = [] ∧ s.works.unlisted = 0 ∧
    s.works.defectOverflow = false ∧ (s.works.slotMark, s.works.entryMark, s.works.entryArmed) = (512, 256, true) ∧
    s.works.events = [] ∧ s.works.mask = 0x0007FF3F#32 ∧ s.works.job = none ∧ s.works.pointer = 0

/-- Power-on and the release of the reset line sample the straps for the link rate (R177), give every block its start
values, set the last restart cause and begin the scan in LOADING (R191). Power-on leaves the slots with the words of log
10, the model's choice. The assertion of the reset line holds the part: requests and replies in flight, a RESTART taken,
the coder job and every output frame are dropped, no transmit timeslot is driven, and ATTN is released (R191). The model's
choices: a power-on while the reset line is asserted gives the start values and stays held, and a release needs no
assertion before it (log 18); a start leaves no break in progress (log 21); the slot low mark is armed at the end of the
scan (log 28); free values drawn before a start are not drawn again (log 12). -/
def Obligations.PowerOnAndTheResetLine : Prop :=
  (∀ (p : Straps) (s : State),
      let rate : LinkRate := if p.rate1 then .mbaud4 else if p.rate0 then .mbaud2 else .mbaud1
      exec (.powerOn p) s =
          .next { s with lastCause := .powerOn, link := Link.start rate, line := Line.start, monitor := Monitor.start 2,
                         store := Store.blank, works := Works.start s.works.factory s.works.freeDraws } ∧
        exec (.resetLine p) s =
          .next { s with resetAsserted := false, lastCause := .resetLine, link := Link.start rate, line := Line.start,
                         monitor := Monitor.start 2, works := Works.start s.works.factory s.works.freeDraws }) ∧
  (∀ s : State, ∃ t, exec .resetAsserted s = .next t ∧ t.attn = false ∧
      t = { s with resetAsserted := true,
                   link := { s.link with rx := [], tx := [], receiver := .hunting, restart := none },
                   line := { s.line with hdx := List.replicate 32 none },
                   works := { s.works with chans := s.works.chans.map fun ch => { ch with output := none }, job := none } })

/-- LOADING ends with each slot number of the factory defect list in the table with source FACTORY, in list order, and
nothing else changed (R123); the scan goes on to WRITING (R122). -/
def Obligations.LoadingEndListsTheFactorySlots : Prop :=
  ∀ s : State, s.resetAsserted = false → s.works.startup = .loading →
    exec .loadingEnd s =
      .next { s with works := { s.works with startup := .writing,
                                             defects := s.works.factory.map fun n => ⟨n, .factory⟩ } }

/-- WRITING ends with every slot not in the defect table holding its 42 pattern words, and every slot in the table
holding what it held; nothing is retired, and the scan enters CHECKING (R125). The pattern is the sequence of R124: a
slot takes 672 bits of it for each slot written before it, each word sixteen of them, the first the most significant,
with the parity of R113. As CHECKING comes to slot `upTo`, each slot read back that differs from its pattern words is
retired with source SCAN, in ascending order: listed while the table holds fewer than 64, and counted as unlisted, with
the overflow flag set, past that (R119, R126). With no slot of WRITING left to read, the scan ends DONE when 1024 or
fewer are retired: the free pool holds every slot not retired in ascending order, both low marks are armed, and
START_DONE is raised with the last restart cause; otherwise it ends FAILED with the pool empty (R127, R194). That
CHECKING may come to a slot before the last, and the record of the slots found, are the model's (log 31). -/
def Obligations.ScanWritesThenRetires : Prop :=
  (∀ s : State, s.resetAsserted = false → s.works.startup = .writing →
      let skipped := s.works.defects.map Defect.slot
      ∃ st, exec .writingEnd s =
          .next { s with store := st, works := { s.works with startup := .checking, checked := 0, scanBad := [] } } ∧
        (∀ n, n < 8192 → n ∉ skipped → st.words n = some (patternWords skipped n)) ∧
        (∀ n, n < 8192 → n ∈ skipped → st.words n = s.store.words n)) ∧
  (∀ (x : Nat → Bool) (skipped : List Nat) (slot i b : Nat), (∀ n, n < 14 → x n = false) → x 14 = true →
      (∀ n, x (n + 15) = (x n ^^ x (n + 1))) → skipped.Nodup → i < 42 → b < 16 →
      let written := ((List.range slot).filter fun n => !skipped.contains n).length
      ∃ w, (patternWords skipped slot)[i]? = some (withParity w) ∧
        w.getLsbD (15 - b) = x (15 + 672 * written + 16 * i + b)) ∧
  (∀ (s : State) (upTo : Nat) (errs : List CellError), s.resetAsserted = false → s.works.startup = .checking →
      let k := s.works
      ∃ bad : List Nat, bad.Pairwise (· < ·) ∧
        (∀ n, n ∈ bad ↔ k.checked ≤ n ∧ n < upTo ∧ n < 8192 ∧ (∀ d ∈ k.defects, d.slot ≠ n) ∧
          (s.store.words n).map (readBack errs n) ≠ some (patternWords k.factory n)) ∧
        (let room := 64 - k.defects.length
         let found : Works :=
           { k with
             defects := k.defects ++ (bad.take room).map fun n => ⟨n, .scan⟩,
             unlisted := k.unlisted + (bad.length - room),
             defectOverflow := k.defectOverflow || decide (room < bad.length),
             checked := max k.checked upTo, scanBad := k.scanBad ++ bad }
         let unread := ∃ n, n < 8192 ∧ k.checked ≤ n ∧ upTo ≤ n ∧ ∀ d ∈ k.defects, d.slot ≠ n
         let ended : Works := { found with checked := 0, scanBad := [] }
         (unread → exec (.checkingEnd ⟨upTo, errs⟩) s = .next { s with works := found }) ∧
         (¬unread → found.defects.length + found.unlisted ≤ 1024 →
           exec (.checkingEnd ⟨upTo, errs⟩) s =
             .next { s with works := { ended with
               startup := .done,
               freePool := (List.range 8192).filter fun n =>
                 !found.scanBad.contains n && !found.defects.any fun d => decide (d.slot = n),
               slotArmed := true, entryArmed := true,
               events := putEvent ⟨.startDone, 255, BitVec.ofNat 32 s.lastCause.code, 0⟩ k.events } }) ∧
         (¬unread → 1024 < found.defects.length + found.unlisted →
           exec (.checkingEnd ⟨upTo, errs⟩) s = .next { s with works := { ended with startup := .failed, freePool := [] } })))

/-- RESTART FULL is made with the values of power-on, the link rate kept and the straps not sampled; a RESTART KEEP
outside DONE is made as a RESTART FULL (R193). The line frame that is open goes on as it is until the next sync (R163,
R167). The model's choices: a break in progress lasts through the restart (log 21), the slot low mark is armed at the end
of the scan (log 28), free values drawn before are not drawn again (log 12), and the four ticks after which the open line
frame lapses are counted anew, with the ticks since sync (R171, log 37). -/
def Obligations.RestartFullTakesTheStartValues : Prop :=
  ∀ s : State, s.resetAsserted = false →
    let t : State :=
      { s with lastCause := .restartFull, link := { Link.start s.link.rate with breakOn := s.link.breakOn },
               line := { Line.start with hdx := s.line.hdx, frameOpen := s.line.frameOpen },
               monitor := Monitor.start 2, works := Works.start s.works.factory s.works.freeDraws }
    (s.link.restart = some .full → exec .restartFull s = .next t) ∧
      (s.link.restart = some .keep → s.works.startup ≠ .done → exec .restartKeep s = .next t)

/-- RESTART KEEP made with the scan DONE: every channel is CLOSED with its settings in force kept, each PENDING entry is
a LOST run of 1, ATTACHED letters are DETACHED, feed queues are freed, the low marks follow their counts, START_DONE is
the one event, and the rest is as the table of R193 keeps it. The line port stays as it is with the line frame that is
open, while the ticks since sync become 0 (R163, R167, R171). The model's choices: a break in progress lasts through the
restart (log 21), and the four ticks after which the open line frame lapses are counted anew (log 37). -/
def Obligations.RestartKeepKeepsTheLetters : Prop :=
  ∀ s : State, s.resetAsserted = false → s.link.restart = some .keep → s.works.startup = .done →
    let queues := s.works.chans.flatMap Channel.feed
    let pool := s.works.freePool ++ queues.filterMap FeedRec.slot
    let free := s.works.freeEntries + queues.length
    exec .restartKeep s =
      .next { s with
        lastCause := .restartKeep, link := { Link.start s.link.rate with breakOn := s.link.breakOn },
        monitor := Monitor.start s.monitor.tolerance,
        works := { s.works with
          chans := s.works.chans.map fun ch => { Channel.initial with settings := ch.settings },
          letters := s.works.letters.map fun l =>
            { l with edit := l.edit.map fun e => if e.isPending then { e with body := .run .lost 1 } else e,
                     channel := none, state := if l.state = .attached then .detached else l.state },
          freeEntries := free, freePool := pool, slotArmed := decide (s.works.slotMark ≤ pool.length),
          entryArmed := decide (s.works.entryMark ≤ free), events := [⟨.startDone, 255, 3, 0⟩], job := none,
          pointer := 0 } }

/-! ### The receiver -/

/-- The receiver of a part that takes characters assembles a message (R178): in HUNTING the lead byte 0xD7 begins one
and any other character is discarded; the two length bytes are checked against 3..1027 and against the free space of the
receive queue (R179); and the last of the length's count of characters completes the message, which joins the back of
the queue (that one command carries several characters is log 6). While a RESTART is taken, and while the part is held,
characters are discarded without being counted, and nothing changes (R188, R191). -/
def Obligations.ReceiverAssemblesMessages : Prop :=
  (∀ s : State, s.resetAsserted = false → s.link.restart = none → s.link.breakOn = false →
    (∀ b : Byte, s.link.receiver = .hunting →
      exec (.leadByteReceived b) s =
        .next { s with link := { s.link with receiver := if b = 0xD7#8 then .lengthBytes [] else .hunting } }) ∧
    (∀ low high : Byte, s.link.receiver = .lengthBytes [] →
      let len := low.toNat + 256 * high.toNat
      exec (.messageLengthReceived low high) s =
        .next { s with link :=
          if len < 3 ∨ 1027 < len then
            { s.link with discarded := min (s.link.discarded + 1) 255, receiver := .hunting }
          else if 4096 - (s.link.rx.map fun m => 6 + m.body.length).sum < 3 + len then
            { s.link with
              overrun := min (s.link.overrun + 1) 255, discarded := min (s.link.discarded + 1) 255,
              receiver := .collecting len [] true }
          else { s.link with receiver := .collecting len [] false } }) ∧
    (∀ (chars got : List Byte) (kind target tag : Byte) (body : List Byte), chars ≠ [] →
      s.link.receiver = .collecting chars.length got false → got.reverse ++ chars = kind :: target :: tag :: body →
      exec (.messageReceived chars) s =
        .next { s with link := { s.link with rx := s.link.rx ++ [⟨kind, target, tag, body⟩], receiver := .hunting } }) ∧
    (∀ chars got : List Byte, chars ≠ [] → s.link.receiver = .collecting chars.length got true →
      exec (.messageReceived chars) s = .next { s with link := { s.link with receiver := .hunting } })) ∧
  (∀ s : State, s.resetAsserted = true ∨ s.link.restart ≠ none →
    (∀ b : Byte, exec (.leadByteReceived b) s = .next s) ∧
      (∀ low high : Byte, exec (.messageLengthReceived low high) s = .next s) ∧
      (∀ chars : List Byte, exec (.messageReceived chars) s = .next s) ∧ exec .framingError s = .next s)

/-- A framing error counts and ends the message being assembled; a break ends it without counting a framing error, and
the receiver is HUNTING again when LRXD is high (R179). A message that a receive overrun has discarded is not counted
again. -/
def Obligations.LinkFaultsDiscardTheMessage : Prop :=
  ∀ s : State, s.resetAsserted = false →
    let discarded :=
      match s.link.receiver with
      | .lengthBytes _ => min (s.link.discarded + 1) 255
      | .collecting _ _ false => min (s.link.discarded + 1) 255
      | _ => s.link.discarded
    (s.link.restart = none → s.link.breakOn = false →
      exec .framingError s =
        .next { s with link := { s.link with framing := min (s.link.framing + 1) 255, discarded := discarded,
                                             receiver := .hunting } }) ∧
    (s.link.breakOn = false →
      exec .lineBreak s =
        .next { s with link := { s.link with
          discarded := discarded, breakOn := true,
          receiver := if s.link.receiver = .hunting then .hunting else .brokenOff } }) ∧
    (s.link.breakOn = true →
      exec .lineBreakEnd s = .next { s with link := { s.link with breakOn := false, receiver := .hunting } })

/-! ### The device requests -/

/-- A kind outside the table of R180 is answered UNKNOWN_KIND in every state of the part, and changes nothing (R181). -/
def Obligations.UnknownKindIsRefused : Prop :=
  ∀ (s : State) (m : Message) (rest : List Message), s.AtFront m rest → m.kind ∉ knownKinds →
    exec .reqUnknownKind s = .next (s.answered m rest ⟨.unknownKind, []⟩ s.works)

/-- IDENTIFY reports identity 0x4E57, part 2040, revision 1, 20 channels, 8192 slots, 12288 entries and 32 letters, in
every state of the part, and changes nothing (R182, R189). -/
def Obligations.IdentifyReportsThePart : Prop :=
  ∀ (s : State) (m : Message) (rest : List Message), s.AtFront m rest → m.kind = 0x01#8 → m.target = 0xFF#8 →
    m.body = [] →
    exec .reqIdentify s =
      .next (s.answered m rest
        ⟨.ok, [0x57#8, 0x4E#8, 0xF8#8, 0x07#8, 0x01#8, 20#8, 0x00#8, 0x20#8, 0x00#8, 0x30#8, 32#8]⟩ s.works)

/-- STATUS is answered in every state of the part (R181, R183). Of the device it reports the fields of R189's table,
which are 27 bytes (log 13), and clears the three link counts, FAST, SLOW and the maximum drift (R175, R179, R183). Of a
dictation channel it reports kind, state, letter, the three counts, the letter's cursor, length and seal boundary, its
squeezed frames and its mark overflow flag, which it clears (R65, R183). Of a transcription channel it reports kind,
state, whether the expected position is present and END was fed, play point, expected position and retained start (0
while the expected position is absent), records, slots, damaged records and late count (R142, R183); of a CLOSED one
kind and state; of a letter record its state, and unless it is FREE job number, channel, cursor, seal boundary, length,
squeezed frames, marks, entries of both lists, slots and overflow flag (R183). These change nothing. -/
def Obligations.StatusReportsAndClears : Prop :=
  ∀ (s : State) (m : Message) (rest : List Message), s.AtFront m rest → m.kind = 0x02#8 → m.body = [] →
    let flag (b : Bool) : Byte := if b then 1#8 else 0#8
    let flags (b c : Bool) : Byte := BitVec.ofNat 8 ((if b then 1 else 0) + (if c then 2 else 0))
    let index (n : Option Nat) : Byte :=
      match n with
      | some v => BitVec.ofNat 8 v
      | none => 0xFF#8
    (m.target = 0xFF#8 →
      let k := s.works
      let n := s.monitor
      let body : List Byte :=
        byte1 k.startup.code ++ byte1 s.lastCause.code ++ byte1 s.link.rate.code ++ byte1 s.link.framing ++
          byte1 s.link.overrun ++ byte1 s.link.discarded ++ byte1 n.lock.code ++ [flags n.fast n.slow] ++
          byte2 n.maxDrift ++ byte1 n.tolerance ++ byte2 k.freePool.length ++ byte2 k.freeEntries ++
          byte2 (k.defects.length + k.unlisted) ++ byte2 k.slotMark ++ byte2 k.entryMark ++
          [flags k.slotArmed k.entryArmed] ++ byte4 k.mask.toNat ++
          byte1 (k.letters.filter fun l => decide (l.state ≠ .free)).length
      body.length = 27 ∧
        exec .reqStatus s =
          .next { s with
            link := { s.link with
              framing := 0, overrun := 0, discarded := 0, rx := rest,
              tx := makeRoom s.link.tx ++ replyBytes m ⟨.ok, body⟩ },
            monitor := { s.monitor with fast := false, slow := false, maxDrift := 0 } }) ∧
    (∀ c, targetOf m.target = .channel c →
      let ch := s.works.chan c
      (∀ i, ch.kind = .dictation → ch.letter = some i →
        let l := s.works.letter i
        exec .reqStatus s =
          .next (s.answered m rest
            ⟨.ok, byte1 1 ++ byte1 ch.state.code ++ byte1 i ++ byte2 ch.dropped ++ byte2 ch.overrun ++ byte2 ch.late ++
              byte3 l.cursor ++ byte3 l.length ++ byte3 l.sealB ++ byte2 l.squeezed ++ [flag l.overflow]⟩
            { s.works with letters := s.works.letters.set i { l with overflow := false } })) ∧
      (ch.kind = .transcription →
        let start : Option Nat :=
          match ch.feed with
          | r :: _ => some r.pos
          | [] => ch.expected
        let pos (p : Option Nat) : List Byte := byte3 (if ch.expected = none then 0 else p.getD 0)
        let damaged := ch.feed.filter fun r =>
          match r.body with
          | .lost _ d => d
          | _ => false
        exec .reqStatus s =
          .next (s.answered m rest
            ⟨.ok, byte1 2 ++ byte1 ch.state.code ++ [flags ch.expected.isSome ch.endFed] ++ pos ch.playPoint ++
              pos ch.expected ++ pos start ++ byte1 ch.feed.length ++ byte1 (ch.feed.filterMap FeedRec.slot).length ++
              byte1 damaged.length ++ byte2 ch.late⟩
            s.works)) ∧
      (ch.kind = .noKind →
        exec .reqStatus s = .next (s.answered m rest ⟨.ok, byte1 0 ++ byte1 ch.state.code⟩ s.works))) ∧
    (∀ i, targetOf m.target = .letter i →
      let l := s.works.letter i
      let entries := l.sealedList.map SealedEntry.entry ++ l.edit
      exec .reqStatus s =
        .next (s.answered m rest
          ⟨.ok, if l.state = .free then byte1 0 else
            byte1 l.state.code ++ byte4 l.job ++ [index l.channel] ++ byte3 l.cursor ++ byte3 l.sealB ++
              byte3 l.length ++ byte2 l.squeezed ++ byte1 l.marks.length ++ byte2 l.edit.length ++
              byte2 l.sealedList.length ++ byte2 (entries.filterMap Entry.slot).length ++ [flag l.overflow]⟩
          s.works))

/-- CONFIGURE loads the fields it carries: the mask; the tolerance, limited to 0..40; each low mark, limited to 0..4096,
armed, and compared at once, so that a count below it raises its event and disarms it. The reply gives the four values
in force, CLAMPED when one was limited (R130, R175, R184). -/
def Obligations.ConfigureLoadsItsFields : Prop :=
  ∀ (s : State) (m : Message) (rest : List Message) (cfg : Configured), s.AtFront m rest →
    m.AsksDevice 0x03#8 s.works → configBody m.body = some cfg →
    let mask := cfg.mask.getD s.works.mask
    let tolerance := (cfg.tolerance.map fun v => min v 40).getD s.monitor.tolerance
    let slotMark := (cfg.slotMark.map fun v => min v 4096).getD s.works.slotMark
    let entryMark := (cfg.entryMark.map fun v => min v 4096).getD s.works.entryMark
    let slotsLow := cfg.slotMark.isSome && decide (s.works.freePool.length < slotMark)
    let entriesLow := cfg.entryMark.isSome && decide (s.works.freeEntries < entryMark)
    let ev1 := if slotsLow then putEvent ⟨.slotsLow, 255, 0, 0⟩ s.works.events else s.works.events
    let ev2 := if entriesLow then putEvent ⟨.entriesLow, 255, 0, 0⟩ ev1 else ev1
    let limited := cfg.tolerance.any (40 < ·) || cfg.slotMark.any (4096 < ·) || cfg.entryMark.any (4096 < ·)
    let body := byte4 mask.toNat ++ byte1 tolerance ++ byte2 slotMark ++ byte2 entryMark
    exec .reqConfigure s =
      .next { s with
        link := { s.link with
          rx := rest, tx := makeRoom s.link.tx ++ replyBytes m ⟨if limited then .clamped else .ok, body⟩ },
        monitor := { s.monitor with tolerance := tolerance },
        works := { s.works with
          mask := mask, slotMark := slotMark, entryMark := entryMark, events := ev2,
          slotArmed := if cfg.slotMark.isSome then !slotsLow else s.works.slotArmed,
          entryArmed := if cfg.entryMark.isSome then !entriesLow else s.works.entryArmed } }

/-- POLL delivers the first pending event, in POLL order, whose kind is enabled, and clears its flag; a masked flag
stays pending and is passed over; with none to deliver it reports NONE and changes nothing. The details of SLOTS_LOW,
ENTRIES_LOW, OVERRUN, POOL_EMPTY, LATE and FEED_LOW are the counts as POLL reads them (R185, R187). While the unplayed
positions are without meaning (R142) the detail of FEED_LOW is a free value (log 12). -/
def Obligations.PollDeliversTheFirstEnabledEvent : Prop :=
  ∀ (s : State) (m : Message) (rest : List Message), s.AtFront m rest → m.AsksDevice 0x04#8 s.works → m.body = [] →
    (∀ (before after : List Event) (e : Event), s.works.EventsOrdered → s.works.events = before ++ e :: after →
      (∀ f ∈ before, s.works.mask.getLsbD f.kind.maskBit = false) → s.works.mask.getLsbD e.kind.maskBit = true →
      let ch := s.works.chan e.chan
      let fed := ch.expected.isSome && ch.playPoint.isSome
      let detail : BitVec 32 :=
        match e.kind with
        | .slotsLow => BitVec.ofNat 32 s.works.freePool.length
        | .entriesLow => BitVec.ofNat 32 s.works.freeEntries
        | .overrun => BitVec.ofNat 32 ch.overrun
        | .poolEmpty => BitVec.ofNat 32 ch.dropped
        | .late => BitVec.ofNat 32 ch.late
        | .feedLow =>
          if fed then BitVec.ofNat 32 (ch.expected.getD 0 - ch.playPoint.getD 0)
          else Config.unplayedWithoutMeaning s.works.freeDraws
        | _ => e.detail
      exec .reqPoll s =
        .next (s.answered m rest
          ⟨.ok, byte1 e.kind.code ++ byte1 e.chan ++ byte4 detail.toNat ++ byte2 e.label.toNat⟩
          { s.works with
            events := before ++ after,
            freeDraws := if e.kind = .feedLow ∧ fed = false then s.works.freeDraws + 1 else s.works.freeDraws })) ∧
    ((∀ f ∈ s.works.events, s.works.mask.getLsbD f.kind.maskBit = false) →
      exec .reqPoll s = .next (s.answered m rest ⟨.ok, byte1 0 ++ byte1 255 ++ byte4 0 ++ byte2 0⟩ s.works))

/-- DEFECTS reports the scan's state, the defect table in its order, the retired slots that are not listed, the overflow
flag and the free slots, in every state of the part, and changes nothing (R121, R189). -/
def Obligations.DefectsReportsTheTable : Prop :=
  ∀ (s : State) (m : Message) (rest : List Message), s.AtFront m rest → m.kind = 0x05#8 → m.target = 0xFF#8 →
    m.body = [] →
    exec .reqDefects s =
      .next (s.answered m rest
        ⟨.ok, byte1 s.works.startup.code ++ byte1 s.works.defects.length ++
          (s.works.defects.map fun d => byte2 d.slot ++ byte1 d.source.code).flatten ++ byte2 s.works.unlisted ++
          [if s.works.defectOverflow then 1#8 else 0#8] ++ byte2 s.works.freePool.length⟩ s.works)

/-- RESTART is replied OK in every state of the part and recorded as taken, the receiver is held in HUNTING, and nothing
else changes (R188, R192). That a message being assembled is dropped without being counted is the model's choice (log
34). -/
def Obligations.RestartIsTaken : Prop :=
  ∀ (s : State) (m : Message) (rest : List Message), s.AtFront m rest → m.kind = 0x06#8 → m.target = 0xFF#8 →
    ∀ kind : RestartKind, m.body = [if kind = .full then 1#8 else 2#8] →
    exec .reqRestart s =
      .next { s with link := { s.link with
        rx := rest, tx := makeRoom s.link.tx ++ replyBytes m ⟨.ok, []⟩, restart := some kind, receiver := .hunting } }

/-- SET writes each channel that its mask names and no other, one after the other in ascending order (log 36, the model's
choice), and one grant follows (R92, R100). In CLOSED, READY, STOPPED and ENDED each value loads at once and nothing stays
staged for its field: a new window is followed by sealing of the attached letter, a new backspace frees what is no longer
retained, and a new trim moves the prepare point, where there is one, to the next SPEECH record or the expected position
(R94, R95, R162). In any other state the values are staged, and the settings in force stay (R94). Each field takes its
value as R93 ranges it: a number is limited to its range, which the reply tells with CLAMPED, and a name outside its table
refuses the SET; so do an unknown code, a code given twice, a mask that names a channel beyond 19 and a body that is not a
mask with whole fields (R92, R93, R189). A SET that names no channel or carries no field changes nothing (log 22). -/
def Obligations.SetLoadsOrStages : Prop :=
  (∀ (s : State) (m : Message) (rest : List Message) (named : List Nat) (values : List SettingValue) (limited : Bool),
    s.AtFront m rest → m.AsksDevice 0x07#8 s.works → setBodyOf m.body = some (named, values, limited) →
    let load (c : Nat) (k : Works) (v : SettingValue) : Works :=
      let ch := k.chan c
      let k1 : Works :=
        { k with chans := k.chans.set c { ch with settings := ch.settings.load v, staged := ch.staged.drop v } }
      let now := k1.chan c
      match v with
      | .window _ =>
        match now.letter with
        | some i => k1.applySealing i
        | none => k1
      | .backspace _ => k1.freeTail c
      | .trim _ =>
        let next (p x : Nat) : Nat :=
          ((now.feed.find? fun r => r.slot.isSome && decide (p ≤ r.pos)).map FeedRec.pos).getD x
        let prepare : Option Nat :=
          match now.prepPoint, now.expected with
          | some p, some x => some (next p x)
          | p, _ => p
        { k1 with chans := k1.chans.set c { now with prepPoint := prepare } }
      | _ => k1
    let setOne (k : Works) (c : Nat) : Works :=
      let ch := k.chan c
      if ch.state = .closed ∨ ch.state = .ready ∨ ch.state = .stopped ∨ ch.state = .ended then values.foldl (load c) k
      else { k with chans := k.chans.set c { ch with staged := values.foldl Staged.put ch.staged } }
    let k := (named.foldl setOne s.works).grantIfIdle
    ((named = [] ∨ values = []) → exec .reqSet s = .next (s.answered m rest ⟨.ok, []⟩ s.works)) ∧
    (named ≠ [] → values ≠ [] →
      exec .reqSet s = .next (s.answered m rest ⟨if limited then .clamped else .ok, []⟩ k) ∧
        (s.works.chans.length = 20 → k.chans.length = 20 ∧
          ∀ c, c < 20 →
            let old := s.works.chan c
            let now := k.chan c
            if c ∈ named then
              if old.state = .closed ∨ old.state = .ready ∨ old.state = .stopped ∨ old.state = .ended then
                now.settings = values.foldl Settings.load old.settings ∧
                  now.staged = values.foldl Staged.drop old.staged
              else now.settings = old.settings ∧ now.staged = values.foldl Staged.put old.staged
            else now.settings = old.settings ∧ now.staged = old.staged))) ∧
  (∀ (s : Settings) (t : Staged),
    (∀ v, s.load (.width v) = { s with width := v } ∧ t.put (.width v) = { t with width := some v } ∧
      t.drop (.width v) = { t with width := none }) ∧
    (∀ v, s.load (.quiet v) = { s with quiet := v } ∧ t.put (.quiet v) = { t with quiet := some v } ∧
      t.drop (.quiet v) = { t with quiet := none }) ∧
    (∀ v, s.load (.hangover v) = { s with hangover := v } ∧ t.put (.hangover v) = { t with hangover := some v } ∧
      t.drop (.hangover v) = { t with hangover := none }) ∧
    (∀ v, s.load (.onset v) = { s with onset := v } ∧ t.put (.onset v) = { t with onset := some v } ∧
      t.drop (.onset v) = { t with onset := none }) ∧
    (∀ v, s.load (.squeeze v) = { s with squeeze := v } ∧ t.put (.squeeze v) = { t with squeeze := some v } ∧
      t.drop (.squeeze v) = { t with squeeze := none }) ∧
    (∀ v, s.load (.window v) = { s with window := v } ∧ t.put (.window v) = { t with window := some v } ∧
      t.drop (.window v) = { t with window := none }) ∧
    (∀ v, s.load (.priority v) = { s with priority := v } ∧ t.put (.priority v) = { t with priority := some v } ∧
      t.drop (.priority v) = { t with priority := none }) ∧
    (∀ v, s.load (.backspace v) = { s with backspace := v } ∧ t.put (.backspace v) = { t with backspace := some v } ∧
      t.drop (.backspace v) = { t with backspace := none }) ∧
    (∀ v, s.load (.trim v) = { s with trim := v } ∧ t.put (.trim v) = { t with trim := some v } ∧
      t.drop (.trim v) = { t with trim := none }) ∧
    (∀ v, s.load (.feedLow v) = { s with feedLow := v } ∧ t.put (.feedLow v) = { t with feedLow := some v } ∧
      t.drop (.feedLow v) = { t with feedLow := none }) ∧
    (∀ v, s.load (.haltOnInstruction v) = { s with haltOnInstruction := v } ∧
      t.put (.haltOnInstruction v) = { t with haltOnInstruction := some v } ∧
      t.drop (.haltOnInstruction v) = { t with haltOnInstruction := none })) ∧
  (∀ (s : State) (m : Message) (rest : List Message), s.AtFront m rest → m.AsksDevice 0x07#8 s.works →
    setBodyOf m.body = none → exec .reqSet s = .next (s.answered m rest ⟨.badField, []⟩ s.works)) ∧
  (∀ (a b c d : Byte) (fields : List (Byte × Byte × Byte)),
    let mask := a.toNat + 256 * (b.toNat + 256 * (c.toNat + 256 * d.toNat))
    let ranged (f : Nat → SettingValue) (low high v : Nat) : Option (SettingValue × Bool) :=
      some (f (max low (min high v)), decide (v < low ∨ high < v))
    let oneOf (zero one : SettingValue) (v : Nat) : Option (SettingValue × Bool) :=
      if v = 0 then some (zero, false) else if v = 1 then some (one, false) else none
    let value (f : Byte × Byte × Byte) : Option (SettingValue × Bool) :=
      let v := f.2.1.toNat + 256 * f.2.2.toNat
      match f.1.toNat with
      | 1 => oneOf (.width .standard) (.width .compact) v
      | 2 => ranged .quiet 0 32767 v
      | 3 => ranged .hangover 0 50 v
      | 4 => ranged .onset 1 3 v
      | 5 => ranged .squeeze 5 250 v
      | 6 => ranged .window 250 30000 v
      | 7 => oneOf (.priority .normal) (.priority .urgent) v
      | 8 => ranged .backspace 0 250 v
      | 9 => ranged .trim 0 250 v
      | 10 => ranged .feedLow 0 500 v
      | 11 => oneOf (.haltOnInstruction false) (.haltOnInstruction true) v
      | _ => none
    setBodyOf (a :: b :: c :: d :: fields.flatMap fun f => [f.1, f.2.1, f.2.2]) =
      if mask < 2 ^ 20 ∧ (fields.map Prod.fst).Nodup ∧ ∀ f ∈ fields, value f ≠ none then
        some ((List.range 20).filter fun n => mask.testBit n, (fields.filterMap value).map Prod.fst,
          (fields.filterMap value).any Prod.snd)
      else none) ∧
  ∀ body : List Byte, body.length < 4 ∨ (body.length - 4) % 3 ≠ 0 → setBodyOf body = none

/-! ### BIND -/

/-- BIND of a CLOSED channel replaces both of its bindings when no other channel holds either timeslot; with a timeslot
held elsewhere it answers IN_USE, and with the channel open BUSY, and changes nothing (R169). -/
def Obligations.BindReplacesBothBindings : Prop :=
  ∀ (s : State) (m : Message) (rest : List Message) (c : Nat) (b : Binding), s.AtFront m rest →
    m.AsksChannel 0x10#8 c s.works → bindBody m.body = some b →
    let held := ∃ d, d < 20 ∧ d ≠ c ∧
      ((b.rx ≠ none ∧ (s.line.binding d).rx = b.rx) ∨ (b.tx ≠ none ∧ (s.line.binding d).tx = b.tx))
    ((s.works.chan c).state ≠ .closed → exec .reqBind s = .next (s.answered m rest ⟨.busy, []⟩ s.works)) ∧
    ((s.works.chan c).state = .closed → held → exec .reqBind s = .next (s.answered m rest ⟨.inUse, []⟩ s.works)) ∧
    ((s.works.chan c).state = .closed → ¬held →
      exec .reqBind s =
        .next { s.answered m rest ⟨.ok, m.body⟩ s.works with
          line := { s.line with bindings := s.line.bindings.set c b } })

/-! ### The letter requests -/

/-- OPEN of a CLOSED channel uses the lowest-numbered FREE record for an empty letter with the job number given, and the
channel is READY with its counters 0; a job number in use answers IN_USE, and no FREE record FULL, and nothing changes
(R53, R74, R91). ATTACH of a CLOSED channel to a DETACHED letter joins them, applies sealing with the channel's window,
and replies the letter's record, cursor, length and seal boundary (R48, R54; that the reply follows the sealing is log
15). A SEALING letter answers ENDED and an ATTACHED one IN_USE, and nothing changes (R54). -/
def Obligations.OpenAndAttachTakeALetter : Prop :=
  (∀ (s : State) (m : Message) (rest : List Message) (c : Nat), s.AtFront m rest → m.AsksChannel 0x11#8 c s.works →
      m.body.length = 4 → (s.works.chan c).state = .closed →
      let job := leValue m.body
      let used := ∃ l ∈ s.works.letters, l.state ≠ .free ∧ l.job = job
      (used → exec .reqOpen s = .next (s.answered m rest ⟨.inUse, []⟩ s.works)) ∧
      (¬used → (∀ l ∈ s.works.letters, l.state ≠ .free) →
        exec .reqOpen s = .next (s.answered m rest ⟨.full, []⟩ s.works)) ∧
      (∀ i, ¬used → i < s.works.letters.length → (s.works.letter i).state = .free →
        (∀ j, j < i → (s.works.letter j).state ≠ .free) →
        exec .reqOpen s =
          .next (s.answered m rest ⟨.ok, byte1 i⟩
            { s.works with
              letters := s.works.letters.set i
                { state := .attached, job := job, channel := some c, edit := [], sealedList := [], cursor := 0, sealB := 0,
                  length := 0, squeezed := 0, marks := [], overflow := false, endTaken := false },
              chans := s.works.chans.set c
                { s.works.chan c with
                  kind := .dictation, state := .ready, letter := some i, dropped := 0, overrun := 0, late := 0 } }))) ∧
  (∀ (s : State) (m : Message) (rest : List Message) (c i : Nat), s.AtFront m rest → m.AsksChannel 0x12#8 c s.works →
      m.body.length = 4 → (s.works.chan c).state = .closed → i < s.works.letters.length →
      (s.works.letter i).job = leValue m.body →
      (∀ j, j < i → (s.works.letter j).state = .free ∨ (s.works.letter j).job ≠ leValue m.body) →
      let joined : Works :=
        { s.works with
          letters := s.works.letters.set i { s.works.letter i with state := .attached, channel := some c },
          chans := s.works.chans.set c
            { s.works.chan c with
              kind := .dictation, state := .ready, letter := some i, dropped := 0, overrun := 0, late := 0 } }
      let k := joined.applySealing i
      let l := k.letter i
      ((s.works.letter i).state = .detached →
        exec .reqAttach s =
          .next (s.answered m rest ⟨.ok, byte1 i ++ byte3 l.cursor ++ byte3 l.length ++ byte3 l.sealB⟩ k)) ∧
      ((s.works.letter i).state = .sealing → exec .reqAttach s = .next (s.answered m rest ⟨.ended, []⟩ s.works)) ∧
      ((s.works.letter i).state = .attached → exec .reqAttach s = .next (s.answered m rest ⟨.inUse, []⟩ s.works)))

/-- DETACH and END of a READY channel close it with its output cut off. DETACH leaves the letter DETACHED; END seals the
whole edit list with its marks, moves cursor and seal boundary to the length, leaves the letter SEALING, and raises
SEAL_READY when the sealed list was empty (R50, R55, R56, R69). -/
def Obligations.DetachAndEndReleaseTheChannel : Prop :=
  ∀ (s : State) (m : Message) (rest : List Message) (c i : Nat), s.AtFront m rest → m.body = [] →
    targetOf m.target = .channel c → s.works.startup = .done → s.works.Dictates c i .ready →
    let l := s.works.letter i
    let released : Channel := { (s.works.chan c).outputCut with kind := .noKind, state := .closed, letter := none }
    (m.kind = 0x13#8 →
      exec .reqDetach s =
        .next (s.answered m rest ⟨.ok, []⟩
          { s.works with
            letters := s.works.letters.set i { l with state := .detached, channel := none },
            chans := s.works.chans.set c released })) ∧
    (m.kind = 0x14#8 →
      exec .reqEnd s =
        .next (s.answered m rest ⟨.ok, byte3 l.length⟩
          { s.works with
            letters := s.works.letters.set i
              { l with
                state := .sealing, channel := none, edit := [], cursor := l.length, sealB := l.length,
                sealedList := l.sealedList ++ withMarks l.marks l.sealB l.edit,
                marks := l.marks.filter fun k => decide (l.length ≤ k.pos) },
            chans := s.works.chans.set c released,
            events :=
              if l.sealedList = [] then putEvent ⟨.sealReady, c, BitVec.ofNat 32 i, 0⟩ s.works.events
              else s.works.events }))

/-- DISCARD frees the record and returns every entry and slot of the letter, sealed list first. By channel it closes the
READY channel too; by job number it takes any letter that is not ATTACHED, and answers IN_USE for one that is (R57). -/
def Obligations.DiscardReturnsTheLetter : Prop :=
  ∀ (s : State) (m : Message) (rest : List Message) (i : Nat), s.AtFront m rest → m.kind = 0x15#8 →
    s.works.startup = .done →
    let l := s.works.letter i
    let entries := l.sealedList.length + l.edit.length
    let slots := slotsOf (l.sealedList.map SealedEntry.entry) ++ slotsOf l.edit
    let freed := s.works.letters.set i Letter.freeRecord
    (∀ c, targetOf m.target = .channel c → m.body = [] → s.works.Dictates c i .ready →
      let released : Channel := { (s.works.chan c).outputCut with kind := .noKind, state := .closed, letter := none }
      exec .reqDiscard s =
        .next (s.answered m rest ⟨.ok, []⟩
          ({ s.works with letters := freed, chans := s.works.chans.set c released }.given entries slots))) ∧
    (targetOf m.target = .device → m.body.length = 4 → i < s.works.letters.length → l.state ≠ .free →
      l.job = leValue m.body →
      (∀ j, j < i → (s.works.letter j).state = .free ∨ (s.works.letter j).job ≠ leValue m.body) →
      (l.state = .attached → exec .reqDiscard s = .next (s.answered m rest ⟨.inUse, []⟩ s.works)) ∧
      (l.state ≠ .attached →
        exec .reqDiscard s =
          .next (s.answered m rest ⟨.ok, []⟩ ({ s.works with letters := freed }.given entries slots))))

/-- TRUNCATE of a READY channel ends the letter at its cursor: what starts there or later returns to the pools, a run
that the cursor divides is cut, marks beyond the cursor go, output is cut off, and sealing follows (R48, R58, R68). That
it cuts output off with the cursor at the length too, where R58 says that TRUNCATE changes nothing, is the model's
choice (log 23). -/
def Obligations.TruncateEndsTheLetterAtItsCursor : Prop :=
  ∀ (s : State) (m : Message) (rest : List Message) (c i : Nat), s.AtFront m rest → m.AsksChannel 0x16#8 c s.works →
    m.body = [] → s.works.Dictates c i .ready →
    let l := s.works.letter i
    exec .reqTruncate s =
      .next (s.answered m rest ⟨.ok, byte3 l.cursor⟩
        (({ s.works with
            letters := s.works.letters.set i
              { l with
                edit := l.truncated l.cursor, length := l.cursor,
                marks := l.marks.filter fun k => decide (k.pos ≤ l.cursor) },
            chans := s.works.chans.set c (s.works.chan c).outputCut }.given
          (l.cutAway l.cursor).length (slotsOf (l.cutAway l.cursor))).applySealing i))

/-- A letter whose edit list has no empty entry, cut at a position within its span: what stays covers the positions
before it, and what stays and what goes are together as many entries as the list had, a run that the position divides
keeping its record (R38, R58). At the start of an entry the entries before it stay, and it and those after it go; inside a
run the entries before it and the run cut at the position stay, with its number and kind, and those after it go; at the end
of the list all stay (R58). A split divides one run at the position into two and keeps every count, and is made exactly
where a run holds the position past its start (R64). -/
def Obligations.RunsAreDividedWithoutLoss : Prop :=
  (∀ (l : Letter) (p : Nat), (∀ e ∈ l.edit, 1 ≤ e.count) → l.sealB ≤ p → p ≤ l.sealB + spanOf l.edit →
      spanOf (l.truncated p) = p - l.sealB ∧ (l.truncated p).length + (l.cutAway p).length = l.edit.length) ∧
  (∀ (l : Letter) (p spare : Nat) (edit : List Entry), l.sealB ≤ p → l.splitRun p spare = some edit →
      ∃ before after id kind m n, 1 ≤ m ∧ 1 ≤ n ∧ l.edit = before ++ ⟨id, .run kind (m + n)⟩ :: after ∧
        edit = before ++ ⟨id, .run kind m⟩ :: ⟨spare, .run kind n⟩ :: after ∧ p = l.sealB + spanOf before + m) ∧
  (∀ (l : Letter) (p : Nat) (before after : List Entry) (e : Entry), l.edit = before ++ e :: after →
    let start := l.sealB + spanOf before
    (p = start → 1 ≤ e.count →
      l.truncated p = before ∧ l.cutAway p = e :: after ∧ ∀ spare, l.splitRun p spare = none) ∧
    (∀ id kind n, start < p → p < start + n → e = ⟨id, .run kind n⟩ →
      l.truncated p = before ++ [⟨id, .run kind (p - start)⟩] ∧ l.cutAway p = after ∧
        ∀ spare, l.splitRun p spare =
          some (before ++ ⟨id, .run kind (p - start)⟩ :: ⟨spare, .run kind (start + n - p)⟩ :: after))) ∧
  (∀ (l : Letter) (p : Nat), l.sealB + spanOf l.edit ≤ p →
    l.truncated p = l.edit ∧ l.cutAway p = [] ∧ ∀ spare, l.splitRun p spare = none)

/-! ### The edit list -/

/-- Overwrite mode places exactly one position: at or within the span the letter covers as many positions as before,
past its end one more, and the new entry covers the write point; insert mode always covers one more. The entries needed
are those by which the list grows, and a slot is freed only with the SPEECH entry that is replaced (R40, R41, R43). A
growth step in insert mode makes the growing run one longer and consumes nothing; in overwrite mode, with the growing
run ending at the write point, it also takes position `w` from the entry there, or makes the letter longer at its end.
Where the run had a number of its own, the list covers one position more exactly when the step says so, and what it
returns are the entries that it loses (R42, R44). -/
def Obligations.PlacementAndGrowthTakeOnePosition : Prop :=
  (∀ (mode : RecMode) (l : Letter) (w spare : Nat) (new : Entry), (∀ e ∈ l.edit, 1 ≤ e.count) → new.count = 1 →
      l.sealB ≤ w → w ≤ l.sealB + spanOf l.edit →
      let p := planEntry mode l w new spare
      let after : Letter := { l with edit := p.edit }
      (p.longer = true ↔ mode = .insert ∨ w = l.sealB + spanOf l.edit) ∧
        spanOf p.edit = spanOf l.edit + (if p.longer then 1 else 0) ∧
        after.entryAt w = some new ∧ (∀ e ∈ p.edit, 1 ≤ e.count) ∧
        p.edit.length = l.edit.length + p.need ∧ p.need ≤ 2 ∧
        (new.slot = none → (slotsOf p.edit ++ p.freed).Perm (slotsOf l.edit))) ∧
  (∀ (mode : RecMode) (l : Letter) (before after : List Entry) (id n : Nat) (kind : RunKind),
      (∀ e ∈ l.edit, 1 ≤ e.count) → l.edit = before ++ ⟨id, .run kind n⟩ :: after →
      (∀ e ∈ before, e.id ≠ id) → (∀ e ∈ after, e.id ≠ id) →
      let w := l.sealB + spanOf before + n
      let g := planGrowth mode l w id
      (g.longer = true ↔ mode = .insert ∨ after = []) ∧
        spanOf g.edit = spanOf l.edit + (if g.longer then 1 else 0) ∧
        ⟨id, .run kind (n + 1)⟩ ∈ g.edit ∧ g.edit.length + g.returned = l.edit.length ∧
        (slotsOf g.edit ++ g.freed).Perm (slotsOf l.edit))

/-- What sealing moves, in R49's three conditions: each entry moved ends at or before the length minus the window, ends at
or before the start of the entry that holds the cursor (the last one with the cursor at the length), and is not PENDING;
and of what stays the front entry fails one of them. The entries keep their order, each takes the marks at its start
along, and the seal boundary comes to the new front (R49, R51, R69). Applying sealing to an ATTACHED letter moves what
its channel's window lets seal, ends a growing run that is sealed, and raises SEAL_READY when the sealed list was empty;
with nothing to move it changes nothing (R27, R48, R50). -/
def Obligations.SealingIsApplied : Prop :=
  (∀ (l : Letter) (window : Nat) (before after : List Entry) (holder : Entry), (∀ e ∈ l.edit, 1 ≤ e.count) →
      l.edit = before ++ holder :: after → l.length = l.sealB + spanOf l.edit →
      let start := l.sealB + spanOf before
      (start ≤ l.cursor ∧ l.cursor < start + holder.count) ∨ (after = [] ∧ l.cursor = l.length) →
      let split := l.sealable window
      let t := l.sealEntries split.1 split.2
      l.edit = split.1 ++ t.edit ∧ t.sealB = l.sealB + spanOf split.1 ∧
        (∀ front e rest, split.1 = front ++ e :: rest →
          let stop := l.sealB + spanOf front + e.count
          stop + window ≤ l.length ∧ stop ≤ start ∧ e.body ≠ .speech none ∧
            ⟨e, l.marks.filter fun m => decide (m.pos = l.sealB + spanOf front)⟩ ∈ t.sealedList) ∧
        (∀ e rest, t.edit = e :: rest →
          let stop := t.sealB + e.count
          ¬(stop + window ≤ l.length ∧ stop ≤ start ∧ e.body ≠ .speech none)) ∧
        t.sealedList.map SealedEntry.entry = l.sealedList.map SealedEntry.entry ++ split.1 ∧
        t.marks = l.marks.filter (fun m => decide (t.sealB ≤ m.pos)) ∧ t.length = l.length ∧ t.cursor = l.cursor) ∧
  (∀ (k : Works) (i c : Nat), (k.letter i).state = .attached → (k.letter i).channel = some c →
    let l := k.letter i
    let split := l.sealable (k.chan c).settings.window
    let ch := k.chan c
    let det := if ch.det.growing.any fun g => split.1.any fun e => decide (e.id = g) then { ch.det with growing := none }
      else ch.det
    (split.1 = [] → k.applySealing i = k) ∧
    (split.1 ≠ [] →
      k.applySealing i =
        { k with
          letters := k.letters.set i (l.sealEntries split.1 split.2), chans := k.chans.set c { ch with det := det },
          events :=
            if l.sealedList = [] ∧ k.startup = .done then putEvent ⟨.sealReady, c, BitVec.ofNat 32 i, 0⟩ k.events
            else k.events }))

/-! ### Motion -/

/-- RECORD starts a recording: a READY channel enters RECORDING in the mode given with capture not started; a REVIEWING
one ends its review first, at its play point; for a RECORDING one the mode becomes pending, and the mode in force with
none pending changes nothing; a DRAINING one answers BUSY (R77, R78, R79). STOP ends what a dictation channel does. A
RECORDING channel's held frames go out as pause, its span ends, and it drains while a frame is captured (R82); a
REVIEWING channel ends its review at the play point (R84); in READY, DRAINING and CLOSED STOP changes nothing (R83). The
reply gives the state after it. -/
def Obligations.RecordAndStopBoundTheSpan : Prop :=
  (∀ (s : State) (m : Message) (rest : List Message) (c i : Nat) (mode : RecMode), s.AtFront m rest →
      m.AsksChannel 0x20#8 c s.works → m.body = [if mode = .insert then 1#8 else 2#8] →
      let ch := s.works.chan c
      (s.works.Dictates c i .ready →
        exec .reqRecord s =
          .next (s.answered m rest ⟨.ok, []⟩
            { s.works with
              chans := s.works.chans.set c
                { ch with
                  state := .recording, recMode := some mode, pendingMode := none, captureStarted := false,
                  filling := [] } })) ∧
      (s.works.Dictates c i .reviewing →
        ∀ p, ch.playPoint = some p →
        let ended : Works :=
          { s.works with
            letters := s.works.letters.set i { s.works.letter i with cursor := p },
            chans := s.works.chans.set c
              { ch.outputCut with
                state := .recording, recMode := some mode, pendingMode := none, captureStarted := false, filling := [],
                playPoint := none, prepPoint := none, stopPoint := none, outputBegun := false } }
        c < s.works.chans.length → exec .reqRecord s = .next (s.answered m rest ⟨.ok, []⟩ (ended.applySealing i))) ∧
      (s.works.Dictates c i .recording →
        exec .reqRecord s =
          .next (s.answered m rest ⟨.ok, []⟩
            { s.works with
              chans := s.works.chans.set c
                { ch with
                  pendingMode :=
                    if ch.pendingMode = none ∧ ch.recMode = some mode then none else some mode } })) ∧
      (s.works.Dictates c i .draining → exec .reqRecord s = .next (s.answered m rest ⟨.busy, []⟩ s.works))) ∧
  (∀ (s : State) (m : Message) (rest : List Message) (c i : Nat), s.AtFront m rest → m.AsksChannel 0x21#8 c s.works →
      m.body = [] → c < s.works.chans.length →
      let ch := s.works.chan c
      (s.works.Dictates c i .recording →
        let released := s.works.releaseHeld c
        let out := released.chan c
        let state : ChanState := if out.capture = [] then .ready else .draining
        exec .reqStop s =
          .next (s.answered m rest ⟨.ok, [if out.capture = [] then 1#8 else 3#8]⟩
            { released with
              chans := released.chans.set c
                { out with
                  filling := [], captureStarted := false, recMode := none, pendingMode := none,
                  det := { out.det with growing := none }, state := state } })) ∧
      (s.works.Dictates c i .reviewing →
        ∀ p, ch.playPoint = some p →
        let ended : Works :=
          { s.works with
            letters := s.works.letters.set i { s.works.letter i with cursor := p },
            chans := s.works.chans.set c
              { ch.outputCut with
                state := .ready, playPoint := none, prepPoint := none, stopPoint := none, outputBegun := false } }
        exec .reqStop s = .next (s.answered m rest ⟨.ok, [1#8]⟩ (ended.applySealing i))) ∧
      (s.works.Dictates c i .ready → exec .reqStop s = .next (s.answered m rest ⟨.ok, [1#8]⟩ s.works)) ∧
      (s.works.Dictates c i .draining → exec .reqStop s = .next (s.answered m rest ⟨.ok, [3#8]⟩ s.works)) ∧
      (ch.state = .closed → exec .reqStop s = .next (s.answered m rest ⟨.ok, [0#8]⟩ s.works)))

/-- WIND sets the cursor to its target, limited to the seal boundary and the length, and replies it, CLAMPED when it was
limited; a cursor that moves is followed by sealing, and one that stays changes nothing (R48, R85). A review is ended
first, which sets the cursor to the play point and seals, and the wind starts there (R48, R86); that a mark is aimed at
where it stood when the request was taken, though that sealing take it out of the table, is the model's choice (log 14).
REVIEW of a READY channel plays from the cursor to its stop point: the end, a position limited to the cursor and the
length, or the next mark beyond the cursor. With the stop point at the cursor it ends at once with STOP_REACHED (R72,
R73, R87). -/
def Obligations.WindAndReviewMoveInTheLetter : Prop :=
  (∀ (s : State) (m : Message) (rest : List Message) (c i : Nat) (t : WindTarget), s.AtFront m rest →
      m.AsksChannel 0x22#8 c s.works → windBody m.body = some t →
      let l := s.works.letter i
      let ch := s.works.chan c
      (∀ n, t = .toMark n → 0 ≤ n ∧ n < (l.marks.length : Int)) → l.sealB ≤ l.length → i < s.works.letters.length →
      let aim (now : Letter) (from_ : Nat) : Int :=
        match t with
        | .relative n => (from_ : Int) + n
        | .absolute n => n
        | .toStart => (now.sealB : Int)
        | .toEnd => (now.length : Int)
        | .toMark n => (((l.marks.map Mark.pos).getD n.toNat 0 : Nat) : Int)
      let clamp (low high : Nat) (v : Int) : Nat := (max (low : Int) (min (high : Int) v)).toNat
      let status (low high : Nat) (v : Int) : Status := if (low : Int) ≤ v ∧ v ≤ (high : Int) then .ok else .clamped
      (s.works.Dictates c i .ready →
        let p := clamp l.sealB l.length (aim l l.cursor)
        let moved : Works := { s.works with letters := s.works.letters.set i { l with cursor := p } }
        exec .reqWind s =
          .next (s.answered m rest ⟨status l.sealB l.length (aim l l.cursor), byte3 p⟩
            (if p = l.cursor then s.works else moved.applySealing i))) ∧
      (s.works.Dictates c i .reviewing →
        ∀ q, ch.playPoint = some q →
        let reviewed : Works :=
          { s.works with
            letters := s.works.letters.set i { l with cursor := q },
            chans := s.works.chans.set c
              { ch.outputCut with
                state := .ready, playPoint := none, prepPoint := none, stopPoint := none, outputBegun := false } }
        let k := reviewed.applySealing i
        let now := k.letter i
        let p := clamp now.sealB now.length (aim now q)
        let moved : Works := { k with letters := k.letters.set i { now with cursor := p } }
        exec .reqWind s =
          .next (s.answered m rest ⟨status now.sealB now.length (aim now q), byte3 p⟩
            (if p = q then k else moved.applySealing i)))) ∧
  (∀ (s : State) (m : Message) (rest : List Message) (c i : Nat) (o : StopOption), s.AtFront m rest →
      m.AsksChannel 0x23#8 c s.works → reviewBody m.body = some o → s.works.Dictates c i .ready →
      let l := s.works.letter i
      let ch := s.works.chan c
      l.cursor ≤ l.length →
      let stop : Nat :=
        match o with
        | .atEnd => l.length
        | .atPosition p => max l.cursor (min l.length p)
        | .nextMark => ((l.marks.filter fun k => decide (l.cursor < k.pos)).map Mark.pos).headD l.length
      let status : Status :=
        match o with
        | .atPosition p => if l.cursor ≤ p ∧ p ≤ l.length then .ok else .clamped
        | _ => .ok
      (stop = l.cursor →
        exec .reqReview s =
          .next (s.answered m rest ⟨status, byte3 stop⟩
            { s.works with events := putEvent ⟨.stopReached, c, BitVec.ofNat 32 stop, 0⟩ s.works.events })) ∧
      (stop ≠ l.cursor →
        let kept (b : OutBuf) : OutBuf :=
          match b with
          | .sending f => .sending f
          | _ => .empty
        let entered : Works :=
          { s.works with
            chans := s.works.chans.set c
              { ch with
                state := .reviewing, playPoint := some l.cursor, prepPoint := some (l.prepareFrom l.cursor stop),
                stopPoint := some stop, outputBegun := false, outX := kept ch.outX, outY := kept ch.outY } }
        exec .reqReview s = .next (s.answered m rest ⟨status, byte3 stop⟩ entered.grantIfIdle)))


/-! ### Marks -/

/-- MARK captures at the write point of a READY or RECORDING channel and at the play point of a REVIEWING one (R63): the
mark joins the table after every mark at its position or before it, or one of its kind there takes the new label; the
growing run of a RECORDING channel ends; a run that holds the position past its start is split there, and sealing
follows (R64). The reply gives the index and the position. With 16 marks and none to relabel it answers FULL and sets
the letter's overflow flag, and without an entry for the split POOL_EMPTY, and nothing else changes (R62, R65). A
RECORDING channel's held frames are released first, where the capture goes on (R31, R62). The model's choices: the 16
marks are counted after that release and the sealing that it brings (log 33), and the reply's index is that before the
sealing of the split (log 15). UNMARK removes the mark with the index given, in any state of a dictation channel that is
not CLOSED, and MARKLIST reports the table in its order with the seal boundary and the length and changes nothing (R70,
R71). -/
def Obligations.MarkRequestsKeepTheTable : Prop :=
  (∀ (s : State) (m : Message) (rest : List Message) (c i : Nat) (kind : MarkKind) (label : BitVec 16) (st : ChanState),
      s.AtFront m rest → m.AsksChannel 0x24#8 c s.works → markBody m.body = some (kind, label) → s.works.Dictates c i st →
      st ≠ .closed →
      let k := if st = .recording then s.works.releaseHeld c else s.works
      let l := k.letter i
      let ch := k.chan c
      let p := if st = .reviewing then ch.playPoint.getD l.cursor else l.cursor
      let there := l.marks.any fun k => decide (k.kind = kind ∧ k.pos = p)
      let table :=
        if there then l.marks.map fun k => if k.kind = kind ∧ k.pos = p then { k with label := label } else k
        else insertMark ⟨kind, label, p⟩ l.marks
      let index := table.findIdx fun k => decide (k.kind = kind ∧ k.pos = p)
      let growing := if ch.state = .recording then none else ch.det.growing
      let chans := k.chans.set c { ch with det := { ch.det with growing := growing } }
      (16 ≤ l.marks.length → there = false →
        exec .reqMark s =
          .next (s.answered m rest ⟨.full, []⟩
            { s.works with letters := s.works.letters.set i { s.works.letter i with overflow := true } })) ∧
      (l.marks.length < 16 ∨ there = true → l.splitRun p k.nextEntry = none →
        exec .reqMark s =
          .next (s.answered m rest ⟨.ok, byte1 index ++ byte3 p⟩
            { k with letters := k.letters.set i { l with marks := table }, chans := chans })) ∧
      (∀ edit, l.marks.length < 16 ∨ there = true → l.splitRun p k.nextEntry = some edit →
        (k.freeEntries = 0 → exec .reqMark s = .next (s.answered m rest ⟨.poolEmpty, []⟩ s.works)) ∧
        (0 < k.freeEntries →
          exec .reqMark s =
            .next (s.answered m rest ⟨.ok, byte1 index ++ byte3 p⟩
              (({ k with
                  letters := k.letters.set i { l with marks := table, edit := edit }, chans := chans,
                  freeEntries := k.freeEntries - 1, nextEntry := k.nextEntry + 1 }).entriesTaken.applySealing i))))) ∧
  (∀ (s : State) (m : Message) (rest : List Message) (c i : Nat) (st : ChanState), s.AtFront m rest →
      targetOf m.target = .channel c → s.works.startup = .done → s.works.Dictates c i st → st ≠ .closed →
      let l := s.works.letter i
      (∀ n : Byte, m.kind = 0x25#8 → m.body = [n] →
        (n.toNat < l.marks.length →
          exec .reqUnmark s =
            .next (s.answered m rest ⟨.ok, []⟩
              { s.works with
                letters := s.works.letters.set i
                  { l with marks := l.marks.take n.toNat ++ l.marks.drop (n.toNat + 1) } })) ∧
        (l.marks.length ≤ n.toNat → exec .reqUnmark s = .next (s.answered m rest ⟨.badField, []⟩ s.works))) ∧
      (m.kind = 0x26#8 → m.body = [] →
        exec .reqMarklist s =
          .next (s.answered m rest
            ⟨.ok, byte1 l.marks.length ++ byte3 l.sealB ++ byte3 l.length ++
              (l.marks.mapIdx fun n k => byte1 n ++ byte1 k.kind.code ++ byte2 k.label.toNat ++ byte3 k.pos).flatten⟩
            s.works)))


/-! ### TAKE -/

/-- A TAKE of one item, or of none, which is limited to one, gives what stands at the front of the letter's stream, at
its taken point, and returns its record to the pools: a mark before its entry; a PAUSE or LOST run; a SPEECH item when
the read of its slot passes, whose slot joins the tail of the free pool; and when the read fails a LOST item marked
damaged, whose slot is retired at run time (R119, R120, R133 to R138). A TAKE of any count, limited to 1..8 and CLAMPED
when it was outside, gives so many items of the stream in their order, or fewer when it ends: each sealed entry after
its marks, and for a SEALING letter the marks left and then END (R131 to R134). What is freed returns together, with one
comparison of the low marks (R140), and with END among the items the letter is FREE (R139). With nothing to give it
replies no item and changes nothing. A slot beyond the 8192 is the model's fault (log 10), and the
unassigned bits of a frame record's first byte go out as zeros (log 24). -/
def Obligations.TakeGivesTheItemAtTheFront : Prop :=
  (∀ (s : State) (m : Message) (rest : List Message) (errs : List CellError) (i : Nat) (a b c d n : Byte) (e : Entry)
      (marks : List Mark) (after : List SealedEntry),
      s.AtFront m rest → m.AsksDevice 0x30#8 s.works → m.body = [a, b, c, d, n] → n.toNat ≤ 1 →
      s.works.findJob (leValue [a, b, c, d]) = some i → (s.works.letter i).sealedList = ⟨e, marks⟩ :: after →
      (s.works.letter i).endTaken = false →
      let l := s.works.letter i
      let point := l.sealB - (l.sealedList.map fun x => x.entry.count).sum
      let status : Status := if n = 1#8 then .ok else .clamped
      let gone : Works := { s.works with letters := s.works.letters.set i { l with sealedList := after } }
      (∀ f ms, marks = f :: ms →
        exec (.reqTake errs) s =
          .next (s.answered m rest
            ⟨status, byte1 1 ++ (byte1 4 ++ byte3 point ++ byte1 f.kind.code ++ byte2 f.label.toNat)⟩
            { s.works with letters := s.works.letters.set i { l with sealedList := ⟨e, ms⟩ :: after } })) ∧
      (∀ count, marks = [] → e.body = .run .pause count →
        exec (.reqTake errs) s =
          .next (s.answered m rest ⟨status, byte1 1 ++ (byte1 2 ++ byte3 point ++ byte1 count)⟩ (gone.given 1 []))) ∧
      (∀ count, marks = [] → e.body = .run .lost count →
        exec (.reqTake errs) s =
          .next (s.answered m rest ⟨status, byte1 1 ++ (byte1 3 ++ byte3 point ++ byte1 count ++ [0#8])⟩ (gone.given 1 []))) ∧
      (∀ slot bytes, marks = [] → e.body = .speech (some slot) → s.store.read errs slot = .ok (some bytes) →
        exec (.reqTake errs) s =
          .next (s.answered m rest ⟨status, byte1 1 ++ (byte1 1 ++ byte3 point ++ sentRecord bytes)⟩
            (gone.given 1 [slot]))) ∧
      (∀ slot, marks = [] → e.body = .speech (some slot) → s.store.read errs slot = .ok none →
        exec (.reqTake errs) s =
          .next (s.answered m rest ⟨status, byte1 1 ++ (byte1 3 ++ byte3 point ++ byte1 1 ++ [1#8])⟩
            ((gone.retireAtRun slot).given 1 []))) ∧
      (∀ slot f, marks = [] → e.body = .speech (some slot) → s.store.read errs slot = .error f →
        exec (.reqTake errs) s = .fault f)) ∧
  (∀ (s : State) (m : Message) (rest : List Message) (errs : List CellError) (i : Nat) (a b c d n : Byte),
    s.AtFront m rest → m.AsksDevice 0x30#8 s.works → m.body = [a, b, c, d, n] →
    s.works.findJob (leValue [a, b, c, d]) = some i → (s.works.letter i).endTaken = false →
    let l := s.works.letter i
    let count := max 1 (min 8 n.toNat)
    let items := l.stream.take count
    let slots := slotsOf (items.filterMap Offer.entry?)
    let entries := (items.filterMap Offer.entry?).length
    let read (slot : Nat) : Option (List Byte) :=
      match s.store.read errs slot with
      | .ok got => got
      | .error _ => none
    (l.sealedList.map fun x => x.entry.count).sum ≤ l.sealB →
    (∀ e ∈ items.filterMap Offer.entry?, e.body ≠ .speech none) → (∀ slot ∈ slots, s.store.words slot ≠ none) →
    let sealedMarks := (offersFrom 0 l.sealedList).length
    let left : Letter :=
      { l with
        sealedList := sealedAfter count l.sealedList,
        marks := if l.state = .sealing then l.marks.drop (count - sealedMarks) else l.marks }
    let bad := slots.filter fun slot => (read slot).isNone
    let gone : Works :=
      { s.works with letters := s.works.letters.set i (if Offer.last ∈ items then Letter.freeRecord else left) }
    exec (.reqTake errs) s =
      .next (s.answered m rest
        ⟨if 1 ≤ n.toNat ∧ n.toNat ≤ 8 then .ok else .clamped,
          byte1 items.length ++ (items.map (Offer.bytes l read)).flatten⟩
        ((bad.foldl Works.retireAtRun gone).given entries (slots.filter fun slot => (read slot).isSome)))) ∧
  (∀ (s : State) (m : Message) (rest : List Message) (errs : List CellError) (i : Nat) (a b c d n : Byte),
    s.AtFront m rest → m.AsksDevice 0x30#8 s.works → m.body = [a, b, c, d, n] →
    s.works.findJob (leValue [a, b, c, d]) = some i → (s.works.letter i).sealedList = [] →
    (s.works.letter i).state ≠ .sealing → (s.works.letter i).endTaken = false →
    exec (.reqTake errs) s =
      .next (s.answered m rest ⟨if 1 ≤ n.toNat ∧ n.toNat ≤ 8 then .ok else .clamped, [0#8]⟩ s.works)) ∧
  (∀ (s : State) (m : Message) (rest : List Message) (errs : List CellError) (i : Nat) (a b c d n : Byte),
    s.AtFront m rest → m.AsksDevice 0x30#8 s.works → m.body = [a, b, c, d, n] →
    s.works.findJob (leValue [a, b, c, d]) = some i → (s.works.letter i).sealedList = [] →
    (s.works.letter i).state = .sealing → (s.works.letter i).endTaken = false →
    let l := s.works.letter i
    let count := max 1 (min 8 n.toNat)
    let marks := (l.marks.take count).map fun f => byte1 4 ++ byte3 f.pos ++ byte1 f.kind.code ++ byte2 f.label.toNat
    let status : Status := if 1 ≤ n.toNat ∧ n.toNat ≤ 8 then .ok else .clamped
    (count ≤ l.marks.length →
      exec (.reqTake errs) s =
        .next (s.answered m rest ⟨status, byte1 count ++ marks.flatten⟩
          { s.works with letters := s.works.letters.set i { l with marks := l.marks.drop count } })) ∧
    (l.marks.length < count →
      exec (.reqTake errs) s =
        .next (s.answered m rest
          ⟨status, byte1 (l.marks.length + 1) ++ marks.flatten ++ (byte1 5 ++ byte3 l.length ++ byte2 l.squeezed)⟩
          { s.works with letters := s.works.letters.set i Letter.freeRecord })))

/-! ### Transcription requests -/

/-- LOAD opens a CLOSED channel as a STOPPED transcription channel with an empty feed queue, no positions and counters
0; an open one answers BUSY. UNLOAD closes it, returns the records and slots of its queue, and cuts its output off. HALT
of a PLAYING or STARVED channel stops it with its output cut off; it changes nothing in STOPPED and ENDED (R145, R146,
R158). -/
def Obligations.LoadUnloadAndHalt : Prop :=
  ∀ (s : State) (m : Message) (rest : List Message) (c : Nat), s.AtFront m rest → targetOf m.target = .channel c →
    s.works.startup = .done →
    let ch := s.works.chan c
    (m.kind = 0x31#8 → m.body = [2#8] →
      (ch.state ≠ .closed → exec .reqLoad s = .next (s.answered m rest ⟨.busy, []⟩ s.works)) ∧
      (ch.state = .closed →
        exec .reqLoad s =
          .next (s.answered m rest ⟨.ok, []⟩
            { s.works with
              chans := s.works.chans.set c
                { ch with
                  kind := .transcription, state := .stopped, letter := none, dropped := 0, overrun := 0, late := 0,
                  feed := [], expected := none, playPoint := none, prepPoint := none, stopPoint := none, endFed := false,
                  outputBegun := false, outX := .empty, outY := .empty } }))) ∧
    (m.kind = 0x32#8 → m.body = [] →
      (ch.state = .closed → exec .reqUnload s = .next (s.answered m rest ⟨.ok, []⟩ s.works)) ∧
      (ch.state ≠ .closed → ch.kind = .transcription →
        exec .reqUnload s =
          .next (s.answered m rest ⟨.ok, []⟩
            ({ s.works with
                chans := s.works.chans.set c
                  { ch.outputCut with
                    kind := .noKind, state := .closed, letter := none, feed := [], expected := none,
                    playPoint := none, prepPoint := none } }.given
              ch.feed.length (ch.feed.filterMap FeedRec.slot))))) ∧
    (m.kind = 0x35#8 → m.body = [] →
      (ch.state = .closed → exec .reqHalt s = .next (s.answered m rest ⟨.ok, []⟩ s.works)) ∧
      (ch.kind = .transcription → ch.state = .stopped ∨ ch.state = .ended →
        exec .reqHalt s = .next (s.answered m rest ⟨.ok, []⟩ s.works)) ∧
      (ch.kind = .transcription → ch.state = .playing ∨ ch.state = .starved →
        exec .reqHalt s =
          .next (s.answered m rest ⟨.ok, (ch.playPoint.map byte3).getD []⟩
            { s.works with
              chans := s.works.chans.set c { ch.outputCut with prepPoint := none, state := .stopped } })))

/-- FEED puts every record at the back of the queue, or none (R148). Past its checks each record stands there in its
order, with an entry of its own: an undamaged SPEECH record with the slot at the head of the free pool, into which its
frame record is written; a damaged one as LOST 1 marked damaged; PAUSE and LOST with their counts; MARK armed, with its
kind and label; and END (R147, R149). The expected position comes to the end of the records, END fed is set with an END
record, the first FEED after LOAD sets the play point, and the prepare point, while there is one (or where the first
FEED finds the channel PLAYING or STARVED), comes to the next SPEECH record or the expected position (R149, R160). The
low marks compare, one grant follows, and the reply gives the expected position (R128, R129, R149). -/
def Obligations.FeedQueuesItsRecords : Prop :=
  ∀ (s : State) (m : Message) (rest : List Message) (c : Nat) (rs : List FedRecord), s.AtFront m rest →
    m.AsksChannel 0x33#8 c s.works → (s.works.chan c).kind = .transcription → (s.works.chan c).state ≠ .closed →
    feedBody m.body = some rs → c < s.works.chans.length →
    let k := s.works
    let ch := k.chan c
    let start := ch.expected.getD ((rs.map FedRecord.pos).headD 0)
    let stop := start + (rs.map FedRecord.span).sum
    let frames := rs.filterMap FedRecord.slotBytes
    let gap := !follows start rs
    let noRoom := decide (96 < ch.feed.length + rs.length) ||
      decide (64 < (ch.feed.filterMap FeedRec.slot).length + frames.length) ||
      decide (k.freeEntries < rs.length) || decide (k.freePool.length < frames.length)
    (ch.endFed = true ∨ endFollowed rs = true →
      exec .reqFeed s = .next (s.answered m rest ⟨.ended, []⟩ k)) ∧
    (ch.endFed = false → endFollowed rs = false → gap = true →
      exec .reqFeed s = .next (s.answered m rest ⟨.gap, []⟩ k)) ∧
    (ch.endFed = false → endFollowed rs = false → gap = false → noRoom = true →
      exec .reqFeed s = .next (s.answered m rest ⟨.full, []⟩ k)) ∧
    (ch.endFed = false → endFollowed rs = false → gap = false → noRoom = false →
      let body (n : Nat) (r : FedRecord) : FeedBody :=
        match r with
        | .speech _ (h :: _) =>
          if h.getLsbD 5 then .lost 1 true else .speech (k.freePool.getD ((rs.take n).filterMap FedRecord.slotBytes).length 0)
        | .speech _ [] => .lost 1 true
        | .pause _ count => .pause count
        | .lost _ count damaged => .lost count damaged
        | .mark _ kind label => .mark kind label true
        | .endOf _ => .endOf
      let queue := ch.feed ++ rs.mapIdx fun n r => ⟨k.nextEntry + n, r.pos, body n r⟩
      let moving := ch.state = .playing ∨ ch.state = .starved
      let prepare : Option Nat := if ch.expected = none ∧ moving then some start else ch.prepPoint
      let next (p : Nat) : Nat :=
        ((queue.find? fun r => r.slot.isSome && decide (p ≤ r.pos)).map FeedRec.pos).getD stop
      let fed : Channel :=
        { ch with
          feed := queue, expected := some stop, endFed := rs.any FedRecord.isEnd,
          playPoint := if ch.expected = none then some start else ch.playPoint, prepPoint := prepare.map next }
      let entries := k.freeEntries - rs.length
      let pool := k.freePool.drop frames.length
      let slotsLow := k.slotArmed && decide (frames ≠ []) && decide (pool.length < k.slotMark)
      let entriesLow := k.entryArmed && decide (entries < k.entryMark)
      let events := if slotsLow then putEvent ⟨.slotsLow, 255, 0, 0⟩ k.events else k.events
      let taken : Works :=
        { k with
          chans := k.chans.set c fed, freeEntries := entries, nextEntry := k.nextEntry + rs.length, freePool := pool,
          slotArmed := k.slotArmed && !slotsLow, entryArmed := k.entryArmed && !entriesLow,
          events := if entriesLow then putEvent ⟨.entriesLow, 255, 0, 0⟩ events else events }
      exec .reqFeed s =
        .next { s.answered m rest ⟨.ok, byte3 stop⟩ taken.grantIfIdle with
          store := s.store.writeAll (k.freePool.zip frames) })

/-- PLAY of a STOPPED or ENDED channel enters PLAYING, from the play point moved back by the backspace setting, but not
before the retained start, when the option asks for it; the marks passed are armed again, and the reply gives the play
point. A channel that plays answers BUSY (R157). STEP of a STOPPED or ENDED channel moves the play point by the signed
distance, limited to the retained start and the expected position, raises the play generation, arms the marks passed,
frees what is no longer retained (R156), raises FEED_LOW when the unplayed positions have come below the feed low mark
with END not fed (R161), and leaves ENDED for STOPPED; nothing else changes, and the reply gives the play point, CLAMPED
when it was limited. A channel that plays answers BUSY, and before the first FEED nothing changes (R159). -/
def Obligations.PlayAndStepFromThePlayPoint : Prop :=
  (∀ (s : State) (m : Message) (rest : List Message) (c : Nat) (back : Bool), s.AtFront m rest →
      m.AsksChannel 0x34#8 c s.works → m.body = [if back then 1#8 else 0#8] →
      (s.works.chan c).kind = .transcription → c < s.works.chans.length →
      let ch := s.works.chan c
      (ch.state = .playing ∨ ch.state = .starved →
        exec .reqPlay s = .next (s.answered m rest ⟨.busy, []⟩ s.works)) ∧
      (ch.state = .stopped ∨ ch.state = .ended → ch.playPoint = none →
        exec .reqPlay s =
          .next (s.answered m rest ⟨.ok, []⟩
            ({ s.works with
                chans := s.works.chans.set c
                  { ch with state := .playing, prepPoint := none, outputBegun := false } }.grantIfIdle))) ∧
      (∀ p x r, ch.state = .stopped ∨ ch.state = .ended → ch.playPoint = some p → ch.expected = some x →
        ch.retainedStart = some r →
        let q := if back then p - min ch.settings.backspace (p - r) else p
        exec .reqPlay s =
          .next (s.answered m rest ⟨.ok, byte3 q⟩
            ({ s.works with
                chans := s.works.chans.set c
                  { ch with
                    state := .playing, outputBegun := false, playPoint := some q, feed := rearm q p ch.feed,
                    prepPoint := some (feedPrepare ch.feed q x) } }.grantIfIdle)))) ∧
  (∀ (s : State) (m : Message) (rest : List Message) (c : Nat), s.AtFront m rest → m.AsksChannel 0x36#8 c s.works →
      m.body.length = 4 → (s.works.chan c).kind = .transcription → c < s.works.chans.length →
      let ch := s.works.chan c
      let n := leSigned m.body
      (ch.state = .playing ∨ ch.state = .starved →
        exec .reqStep s = .next (s.answered m rest ⟨.busy, []⟩ s.works)) ∧
      (ch.state = .stopped ∨ ch.state = .ended → ch.playPoint = none →
        exec .reqStep s = .next (s.answered m rest ⟨if n = 0 then .ok else .clamped, []⟩ s.works)) ∧
      (∀ p x r, ch.state = .stopped ∨ ch.state = .ended → ch.playPoint = some p → ch.expected = some x →
        ch.retainedStart = some r → r ≤ x →
        let aim : Int := (p : Int) + n
        let q := (max (r : Int) (min (x : Int) aim)).toNat
        let status : Status := if (r : Int) ≤ aim ∧ aim ≤ (x : Int) then .ok else .clamped
        let armed := ch.feed.map fun f =>
          match f.body with
          | .mark kind label _ => if q ≤ f.pos ∧ f.pos < p then { f with body := .mark kind label true } else f
          | _ => f
        let moved : Works :=
          { s.works with
            chans := s.works.chans.set c
              { ch with generation := ch.generation + 1, playPoint := some q, feed := armed } }
        let freed := moved.freeTail c
        let low := ch.endFed = false ∧ ch.settings.feedLow ≤ x - p ∧ x - q < ch.settings.feedLow
        exec .reqStep s =
          .next (s.answered m rest ⟨status, byte3 q⟩
            { freed with
              chans := freed.chans.set c { freed.chan c with state := .stopped },
              events := if low then putEvent ⟨.feedLow, c, 0, 0⟩ freed.events else freed.events })))

/-! ### Line port and monitor -/

/-- A sync away from the frame boundary counts the line frame, hands each RECORDING channel whose capture has started
the sample of its receive timeslot (0 where none is bound, no line frame was open or its bits had not all arrived),
drives in each transmit timeslot the sample of its channel's output frame that the frame counter numbers, and counts at
the monitor; in ABSENT it begins a window (R163, R164, R165, R166, R172). No frame boundary occurs at such a sync (log
1). -/
def Obligations.SyncCountsAndHandsSamples : Prop :=
  ∀ (s : State) (rx : List (Option Sample)), s.resetAsserted = false → s.line.frameCounter + 1 < 160 →
    let counter := s.line.frameCounter + 1
    let handed (c : Nat) : Sample :=
      match (s.line.binding c).rx with
      | some slot => if s.line.frameOpen then ((rx[slot]?).getD none).getD 0 else 0
      | none => 0
    let absent := decide (s.monitor.lock = .absent)
    exec (.frameBoundary rx) s = .next s ∧
    ∃ t, exec (.sync rx) s = .next t ∧
      t = { s with
        monitor := { s.monitor with
          ticks := 0, lock := if absent then .unlocked else s.monitor.lock,
          windowTicks := if absent then 0 else s.monitor.windowTicks,
          windowSyncs := if absent then 0 else min (s.monitor.windowSyncs + 1) 65535 },
        works := { s.works with
          chans := s.works.chans.mapIdx fun c ch =>
            if ch.state = .recording ∧ ch.captureStarted = true then { ch with filling := ch.filling ++ [handed c] } else ch },
        line := { s.line with frameCounter := counter, frameOpen := true, hdx := t.line.hdx } } ∧
      t.line.hdx.length = 32 ∧
      (∀ c slot, c < 20 → slot < 32 → s.line.Exclusive → (s.line.binding c).tx = some slot →
        t.line.hdx[slot]? = some ((s.works.chan c).output.bind fun f => f[counter]?)) ∧
      (∀ slot, slot < 32 → (∀ c, c < 20 → (s.line.binding c).tx ≠ some slot) → t.line.hdx[slot]? = some none)

/-- The sync at which the frame counter wraps from 159 to 0 is the frame boundary, under either name (that SYNC and
FRAME_BOUNDARY are two names of one command is log 2, DEDUCED): the samples are handed over first, then each channel
does its work, the transcription channels first, with every output frame ended, and one grant follows (R100, R164, R166;
the order of the channels is log 27). The sync counts at the monitor (R172), and sample 0 of each output frame begun goes
out in the line frame that it opens (R163, R166). At a boundary a RECORDING channel first loads its staged settings and its
pending mode: a new window is followed by sealing, and a lowered onset count by the release of the held frames (the
sealing before the release is log 35, the model's choice). Then the completed frame is decided once capture has started,
and otherwise capture starts with the detector at its starting values (R18, R24, R80, R94, R95); where the release ended
the span at the length limit (R47), its frame is discarded (log 16, DEDUCED). In the other states the staged settings
load, a new window is followed by sealing, a new backspace frees what is no longer retained, and a new trim moves the
prepare point (R94, R95, R162). A frame that was SENDING has gone out (R88). -/
def Obligations.FrameBoundaryFollowsTheSamples : Prop :=
  (∀ (s : State) (rx : List (Option Sample)), s.resetAsserted = false → s.line.frameCounter = 159 →
      let handed := s.works.handSamples s.line rx
      let ended : Works := { handed with chans := handed.chans.map fun ch => { ch with output := none } }
      let locked := decide (s.monitor.lock = .locked)
      let first := (List.range 20).foldl (fun acc c =>
        if (acc.chan c).kind = .transcription then acc.transcriptionBoundary c else acc) ended
      let second := (List.range 20).foldl (fun acc c =>
        if (acc.chan c).kind = .transcription then acc else acc.otherBoundary c locked) first
      let after := second.grantIfIdle
      let absent := decide (s.monitor.lock = .absent)
      ∃ hdx : List (Option Sample),
        let t : State :=
          { s with
            monitor := { s.monitor with
              ticks := 0, lock := if absent then .unlocked else s.monitor.lock,
              windowTicks := if absent then 0 else s.monitor.windowTicks,
              windowSyncs := if absent then 0 else min (s.monitor.windowSyncs + 1) 65535 },
            works := after, line := { s.line with frameCounter := 0, frameOpen := true, hdx := hdx } }
        exec (.frameBoundary rx) s = .next t ∧ exec (.sync rx) s = .next t ∧ hdx.length = 32 ∧
          (∀ c slot, c < 20 → slot < 32 → s.line.Exclusive → (s.line.binding c).tx = some slot →
            hdx[slot]? = some ((after.chan c).output.bind fun f => f[0]?)) ∧
          (∀ slot, slot < 32 → (∀ c, c < 20 → (s.line.binding c).tx ≠ some slot) → hdx[slot]? = some none)) ∧
  (∀ (k : Works) (c : Nat) (locked : Bool), c < k.chans.length → (k.chan c).state = .recording →
    let ch := k.chan c
    let mode := if ch.pendingMode = none then ch.recMode else ch.pendingMode
    let loaded : Works :=
      { k with
        chans := k.chans.set c
          { ch with
            outX := ch.outX.sent, outY := ch.outY.sent, settings := ch.loaded, staged := Staged.empty, recMode := mode,
            pendingMode := none } }
    let sealed_ : Works :=
      match ch.letter with
      | some i => if ch.staged.window = none then loaded else loaded.applySealing i
      | none => loaded
    let ready := if ch.loaded.onset < ch.settings.onset then sealed_.releaseHeld c else sealed_
    let now := ready.chan c
    let with_ (d : Channel) : Works := { ready with chans := ready.chans.set c d }
    (now.state ≠ .recording → k.otherBoundary c locked = ready) ∧
      (now.state = .recording → now.captureStarted = true →
        k.otherBoundary c locked = (with_ { now with filling := [] }).decideFrame c locked now.filling) ∧
      (now.state = .recording → now.captureStarted = false →
        k.otherBoundary c locked =
          with_ { now with
            captureStarted := true, filling := [],
            det := { phase := .speech, quiet := 0, loud := 0, hold := [], growing := none, prevKept := false } })) ∧
  (∀ (k : Works) (c : Nat), c < k.chans.length →
    let ch := k.chan c
    let loaded : Works := { k with chans := k.chans.set c { ch with settings := ch.loaded, staged := Staged.empty } }
    let sealed_ : Works :=
      match ch.letter with
      | some i => if ch.staged.window = none then loaded else loaded.applySealing i
      | none => loaded
    let freed := if ch.staged.backspace = none then sealed_ else sealed_.freeTail c
    let now := freed.chan c
    let prepared : Channel :=
      match now.prepPoint, now.expected with
      | some p, some x => { now with prepPoint := some (feedPrepare now.feed p x) }
      | _, _ => now
    let done := if ch.staged.trim = none then freed else { freed with chans := freed.chans.set c prepared }
    k.loadAtBoundary c = done ∧
      ∀ locked, ch.state ≠ .recording → ch.state ≠ .reviewing →
        k.otherBoundary c locked =
          { done with
            chans := done.chans.set c
              { done.chan c with outX := (done.chan c).outX.sent, outY := (done.chan c).outY.sent } })

/-- A reference tick counts the ticks since the last sync. The fourth in UNLOCKED or LOCKED makes the monitor ABSENT,
abandons the window, and raises LINE_LOST with detail 0 if it was LOCKED; in ABSENT further ticks change no more than
the count, and the fourth ends the line frame (R172, R174; that it is over by then is log 19, and that these are the ticks
since a restart where one was made since the sync is the model's choice, log 37). The 8000th tick of a
window ends it. The drift is the syncs counted less 8000: its magnitude may raise the maximum drift, and beyond the
tolerance it sets FAST or SLOW. The second good window in a row makes the monitor LOCKED, and a bad one UNLOCKED; going
from one to the other raises LINE_LOCKED or LINE_LOST with the drift as a signed detail (R173, R174, R187). That
SYNC_ABSENCE and WINDOW_END are the ticks that bring these, under another name, is log 2 (DEDUCED), and that absence
comes first where both meet is log 25. -/
def Obligations.TicksBringAbsenceAndWindowEnds : Prop :=
  (∀ s : State, s.resetAsserted = false → s.monitor.ticks ≤ 4 →
      (s.monitor.lock = .absent →
        let ticks := min (s.monitor.ticks + 1) 4
        exec .referenceTick s =
          .next { s with
            monitor := { s.monitor with ticks := ticks },
            line := if ticks = 4 then { s.line with frameOpen := false, hdx := List.replicate 32 none } else s.line }) ∧
      (s.monitor.lock ≠ .absent → s.monitor.ticks = 3 →
        let t : State :=
          { s with
            monitor := { s.monitor with ticks := 4, lock := .absent, windowTicks := 0, windowSyncs := 0, good := 0 },
            line := { s.line with frameOpen := false, hdx := List.replicate 32 none },
            works := if s.monitor.lock = .locked ∧ s.works.startup = .done then
                { s.works with events := putEvent ⟨.lineLost, 255, 0, 0⟩ s.works.events }
              else s.works }
        exec .referenceTick s = .next t ∧ exec .syncAbsence s = .next t) ∧
      (s.monitor.lock ≠ .absent → s.monitor.ticks < 3 → s.monitor.windowTicks + 1 < 8000 →
        exec .referenceTick s =
          .next { s with monitor := { s.monitor with
            ticks := s.monitor.ticks + 1, windowTicks := s.monitor.windowTicks + 1 } })) ∧
  (∀ s : State, s.resetAsserted = false → s.monitor.lock ≠ .absent → s.monitor.ticks < 3 →
      s.monitor.windowTicks = 7999 →
      let m := s.monitor
      let drift : Int := (m.windowSyncs : Int) - 8000
      let good := if drift.natAbs ≤ m.tolerance then min (m.good + 1) 2 else 0
      let lock : Lock := if good = 2 then .locked else .unlocked
      let raised (kind : EventKind) : Works :=
        if s.works.startup = .done then
          { s.works with events := putEvent ⟨kind, 255, BitVec.ofInt 32 drift, 0⟩ s.works.events }
        else s.works
      let t : State :=
        { s with
          monitor := { m with
            ticks := m.ticks + 1, maxDrift := max m.maxDrift drift.natAbs,
            fast := m.fast || decide ((m.tolerance : Int) < drift), slow := m.slow || decide (drift < -(m.tolerance : Int)),
            good := good, lock := lock, windowTicks := 0, windowSyncs := 0 },
          works :=
            if m.lock = .unlocked ∧ lock = .locked then raised .lineLocked
            else if m.lock = .locked ∧ lock = .unlocked then raised .lineLost
            else s.works }
      exec .referenceTick s = .next t ∧ exec .windowEnd s = .next t)


/-! ### The coder -/

/-- A channel asks while it has no job in service: in RECORDING or DRAINING with a WAITING frame (R98); in REVIEWING with an
EMPTY output buffer, when the prepare point is below the stop point, at most one beyond the play point, and held by a CODED
SPEECH entry (R99); in PLAYING or STARVED with an EMPTY output buffer, when the prepare point is below the expected position
and held by a SPEECH record that is the first or second to be output, skipped positions not counted (R160); and in no other
state. A grant is made only while the coder is idle, and goes to the lowest-numbered URGENT channel that asks, otherwise to
the first NORMAL one from the rotation pointer upward and round; a NORMAL grant moves the pointer to the channel after
it (R100, R101). The job of a RECORDING or DRAINING channel encodes its oldest waiting frame, which is then IN SERVICE:
the entry placed for it, its width, and as base the carry when it continues the frame before, or 0 (R15, R81, R102).
That of a REVIEWING channel decodes the SPEECH entry at its prepare point, and that of a PLAYING or STARVED one the
SPEECH record there, into an EMPTY output buffer, the first of the two, with the play generation; the buffer awaits its
position, and the prepare point goes on past it and past what needs no decoding (R88, R99, R102, R160). -/
def Obligations.GrantGoesByPriorityAndRotation : Prop :=
  (∀ (k : Works) (c : Nat),
    let ch := k.chan c
    let served := ∃ j, k.job = some j ∧ j.chan = c
    let empty := ch.outX = .empty ∨ ch.outY = .empty
    (ch.state = .recording ∨ ch.state = .draining →
      (k.asks c = true ↔ ¬served ∧ ∃ w ∈ ch.capture, w.inService = false)) ∧
    (∀ i p q stop, ch.state = .reviewing → ch.letter = some i → ch.playPoint = some p → ch.prepPoint = some q →
      ch.stopPoint = some stop →
      let l := k.letter i
      let held := ∃ before e after slot, l.edit = before ++ e :: after ∧ e.body = .speech (some slot) ∧
        q = l.sealB + spanOf before
      (k.asks c = true ↔ ¬served ∧ empty ∧ q < stop ∧ q ≤ p + 1 ∧ held)) ∧
    (∀ p q x, ch.state = .playing ∨ ch.state = .starved → ch.playPoint = some p → ch.prepPoint = some q →
      ch.expected = some x →
      let trim := ch.settings.trim
      let output (r : FeedRec) : Nat :=
        match r.body with
        | .pause n => if trim = 0 then n else min n trim
        | _ => r.count
      let ahead (r : FeedRec) : Nat := (ch.feed.map fun f => min (f.pos + output f) r.pos - max f.pos p).sum
      let held := ∃ r slot, recordAt ch.feed q = some r ∧ r.body = .speech slot ∧ ahead r ≤ 1
      (k.asks c = true ↔ ¬served ∧ empty ∧ q < x ∧ held)) ∧
    (ch.state = .playing ∨ ch.state = .starved → ch.prepPoint = none → k.asks c = false) ∧
    (ch.state = .closed ∨ ch.state = .ready ∨ ch.state = .stopped ∨ ch.state = .ended → k.asks c = false)) ∧
  (∀ k : Works, k.chans.length = 20 → k.pointer < 20 →
    (k.job ≠ none → k.grantIfIdle = k) ∧
    (k.job = none → (∀ c, c < 20 → k.asks c = false) → k.grantIfIdle = k) ∧
    (∀ c, k.job = none → c < 20 → k.asks c = true → (k.chan c).settings.priority = .urgent →
      (∀ d, d < c → k.asks d = false ∨ (k.chan d).settings.priority = .normal) →
      k.grantIfIdle.job.map Job.chan = some c ∧ k.grantIfIdle.pointer = k.pointer ∧ k.grantIfIdle = k.grantTo c) ∧
    (∀ i, k.job = none → i < 20 → (∀ d, d < 20 → k.asks d = true → (k.chan d).settings.priority = .normal) →
      k.asks ((k.pointer + i) % 20) = true → (∀ j, j < i → k.asks ((k.pointer + j) % 20) = false) →
      k.grantIfIdle.job.map Job.chan = some ((k.pointer + i) % 20) ∧
        k.grantIfIdle.pointer = ((k.pointer + i) % 20 + 1) % 20 ∧
        k.grantIfIdle = k.grantTo ((k.pointer + i) % 20))) ∧
  (∀ (k : Works) (c : Nat), c < k.chans.length →
    let ch := k.chan c
    let moved := if ch.settings.priority = .urgent then k.pointer else (c + 1) % 20
    let granted (d : Channel) (j : Job) : Works := { k with pointer := moved, chans := k.chans.set c d, job := some j }
    (∀ before w after i, ch.state = .recording ∨ ch.state = .draining → ch.capture = before ++ w :: after →
      (∀ v ∈ before, v.inService = true) → w.inService = false → ch.letter = some i →
      k.grantTo c =
        granted { ch with capture := before ++ { w with inService := true } :: after }
          (.encode c i w.entry w.width (if w.continues then ch.carry else 0))) ∧
    (∀ side, (if ch.outX = .empty then side = .x else ch.outY = .empty ∧ side = .y) →
      let awaiting (p : Nat) : Channel :=
        match side with
        | .x => { ch with outX := .awaiting p }
        | .y => { ch with outY := .awaiting p }
      (∀ i p q stop e slot, ch.state = .reviewing → ch.letter = some i → ch.playPoint = some p → ch.prepPoint = some q →
        ch.stopPoint = some stop → q < stop → q ≤ p + 1 → (k.letter i).entryAt q = some e →
        e.body = .speech (some slot) →
        k.grantTo c =
          granted { awaiting q with prepPoint := some ((k.letter i).prepareFrom (q + 1) stop) }
            (.decode c (.letter i) e.id side ch.generation)) ∧
      (∀ p q x r slot, ch.state = .playing ∨ ch.state = .starved → ch.playPoint = some p → ch.prepPoint = some q →
        ch.expected = some x → recordAt ch.feed q = some r → r.body = .speech slot → q < x →
        outputsBefore ch.feed ch.settings.trim p r.pos ≤ 1 →
        let next := ((ch.feed.find? fun f => f.slot.isSome && decide (r.pos + 1 ≤ f.pos)).map FeedRec.pos).getD x
        k.grantTo c =
          granted { awaiting r.pos with prepPoint := some next } (.decode c .feedQueue r.id side ch.generation))))

/-- An ENCODE completion with a free slot takes the head of the free pool for the entry, writes the frame record into
it, and leaves the last reconstruction as the channel's carry; with the pool empty the entry becomes a LOST run of 1 and
POOL_EMPTY is raised, and the carry still takes r[159]. Either way the capture buffer is free, and sealing, the end of
DRAINING and one grant follow (R14, R104, R105, R106). The end of DRAINING: a DRAINING channel whose capture pair is empty
enters READY, and DRAINED is raised with the letter's cursor; otherwise nothing changes (R83, R106). -/
def Obligations.EncodeCompletionCodesTheEntry : Prop :=
  (∀ (s : State) (c i entry : Nat) (width : Width) (base : Sample) (w : WaitFrame),
    s.works.job = some (.encode c i entry width base) →
    (s.works.chan c).capture.find? WaitFrame.inService = some w →
    let ch := s.works.chan c
    let l := s.works.letter i
    let carry := finalReconstruction width base w.samples
    let chans := s.works.chans.set c
      { ch with carry := carry, capture := ch.capture.filter fun v => !v.inService }
    let letters (body : EntryBody) := s.works.letters.set i
      { l with edit := l.edit.map fun e => if e.id = entry then { e with body := body } else e }
    (∀ slot pool, s.works.freePool = slot :: pool →
      let low := s.works.slotArmed && decide (pool.length < s.works.slotMark)
      let coded : Works :=
        { s.works with
          freePool := pool, job := none, chans := chans, letters := letters (.speech (some slot)),
          slotArmed := s.works.slotArmed && !low,
          events := if low ∧ s.works.startup = .done then putEvent ⟨.slotsLow, 255, 0, 0⟩ s.works.events
            else s.works.events }
      exec .encodeCompletion s =
        .next { s with
          store := s.store.write slot (encodeFrame width base w.samples).toBytes,
          works := ((coded.applySealing i).drainCheck c i).grantIfIdle }) ∧
    (s.works.freePool = [] →
      let lost : Works :=
        { s.works with
          job := none, chans := chans, letters := letters (.run .lost 1),
          events := if s.works.startup = .done then putEvent ⟨.poolEmpty, c, 0, 0⟩ s.works.events
            else s.works.events }
      exec .encodeCompletion s =
        .next { s with works := ((lost.applySealing i).drainCheck c i).grantIfIdle })) ∧
  (∀ (k : Works) (c i : Nat),
    let ch := k.chan c
    (ch.state = .draining → ch.capture = [] →
      k.drainCheck c i =
        { k with
          chans := k.chans.set c { ch with state := .ready },
          events :=
            if k.startup = .done then putEvent ⟨.drained, c, BitVec.ofNat 32 (k.letter i).cursor, 0⟩ k.events
            else k.events }) ∧
    (ch.state ≠ .draining ∨ ch.capture ≠ [] → k.drainCheck c i = k))

/-- A DECODE completion whose play generation is no longer its channel's is stale and touches nothing but the coder. A
current one fills its buffer: with the decoded samples of its slot's frame record when the read passes, and with zeros
when it fails, where the entry becomes LOST and the slot is retired (R107, R108, R109). A buffer is filled for the
position it awaits, and one that awaits none stays (R88). The entry of a letter becomes a LOST run of 1 in its place,
which sealing follows; the record of a feed queue LOST 1 marked damaged (R48, R109, R160). A slot beyond the 8192 is the
model's fault (log 10), and a job whose entry holds no slot completes as a stale one (log 29). -/
def Obligations.DecodeCompletionFillsItsBuffer : Prop :=
  (∀ (s : State) (errs : List CellError) (c : Nat) (source : JobSource) (entry : Nat) (side : Side)
      (generation : BitVec 16), s.works.job = some (.decode c source entry side generation) →
      let idle : Works := { s.works with job := none }
      let filled (f : Frame) : Works :=
        { idle with chans := s.works.chans.set c ((s.works.chan c).fillSide side f) }
      (generation ≠ (s.works.chan c).generation →
        exec (.decodeCompletion errs) s = .next { s with works := idle.grantIfIdle }) ∧
      (∀ slot, generation = (s.works.chan c).generation → s.works.jobSlot c source entry = some slot →
        (∀ bytes, s.store.read errs slot = .ok (some bytes) →
          exec (.decodeCompletion errs) s =
            .next { s with works := (filled (decodeFrame (FrameRecord.ofBytes bytes))).grantIfIdle }) ∧
        (s.store.read errs slot = .ok none →
          exec (.decodeCompletion errs) s =
            .next { s with
              works := (((filled (List.replicate 160 0#16)).loseEntry c source entry).retireAtRun slot).grantIfIdle }) ∧
        (∀ f, s.store.read errs slot = .error f → exec (.decodeCompletion errs) s = .fault f)) ∧
      (generation = (s.works.chan c).generation → s.works.jobSlot c source entry = none →
        exec (.decodeCompletion errs) s = .next { s with works := idle.grantIfIdle })) ∧
  (∀ (ch : Channel) (f : Frame),
    (∀ p, ch.outX = .awaiting p → ch.fillSide .x f = { ch with outX := .filled p f }) ∧
    (∀ p, ch.outY = .awaiting p → ch.fillSide .y f = { ch with outY := .filled p f }) ∧
    ((∀ p, ch.outX ≠ .awaiting p) → ch.fillSide .x f = ch) ∧ ((∀ p, ch.outY ≠ .awaiting p) → ch.fillSide .y f = ch)) ∧
  (∀ (k : Works) (c i entry : Nat),
    let l := k.letter i
    let ch := k.chan c
    let lost : Works :=
      { k with
        letters := k.letters.set i
          { l with edit := l.edit.map fun e => if e.id = entry then { e with body := .run .lost 1 } else e } }
    k.loseEntry c (.letter i) entry = lost.applySealing i ∧
      k.loseEntry c .feedQueue entry =
        { k with
          chans := k.chans.set c
            { ch with feed := ch.feed.map fun r => if r.id = entry then { r with body := .lost 1 true } else r } })

/-- A slot retired at run time stands at the end of the defect table while it has room, and is counted with the overflow
flag set otherwise; SLOT_RETIRED is raised with its number, and the free pool stays as it is (R119, R120). -/
def Obligations.RetirementListsOrCounts : Prop :=
  ∀ (k : Works) (slot : Nat), k.startup = .done →
    let events := putEvent ⟨.slotRetired, 255, BitVec.ofNat 32 slot, 0⟩ k.events
    (k.defects.length < 64 →
      k.retireAtRun slot = { k with defects := k.defects ++ [⟨slot, .runtime⟩], events := events }) ∧
    (64 ≤ k.defects.length →
      k.retireAtRun slot = { k with unlisted := k.unlisted + 1, defectOverflow := true, events := events })

/-! ### The pause detector and the items of a recording -/

/-- What the detector decides of a frame completed while the monitor is LOCKED (R19, R20, R21, R22, R23). In SPEECH a
frame is speech until the quiet frames in a row have used up the hangover; the next quiet one is pause and the detector
enters PAUSE. In PAUSE a quiet frame releases the held frames as pause and is pause itself; a loud one is held until the
onset is complete, and then the held frames and it are speech, oldest first, and the detector enters SPEECH. A frame
completed while the monitor is not LOCKED is LOST: held frames are released as pause, a LOST item is decided, and the
detector is in SPEECH with nothing counted (R29). To release the held frames, the hold ring is emptied, each frame of it is
decided as a pause item, oldest first, and the loud count is 0 (R23). -/
def Obligations.DetectorDecidesEveryFrame : Prop :=
  (∀ (k : Works) (c : Nat) (f : Frame),
      let ch := k.chan c
      let quiet := decide ((f.map fun x => x.toInt.natAbs).foldl max 0 < ch.settings.quiet)
      let withDet (d : Detector) : Works := { k with chans := k.chans.set c { ch with det := d } }
      (ch.det.phase = .speech → quiet = false →
        k.decideFrame c true f = (withDet { ch.det with quiet := 0 }).decideSpeech c f) ∧
      (ch.det.phase = .speech → quiet = true → ch.det.quiet < ch.settings.hangover →
        k.decideFrame c true f = (withDet { ch.det with quiet := ch.det.quiet + 1 }).decideSpeech c f) ∧
      (ch.det.phase = .speech → quiet = true → ch.settings.hangover ≤ ch.det.quiet →
        k.decideFrame c true f =
          (withDet { ch.det with phase := .pause, quiet := 0, loud := 0, hold := [], growing := none }).decideRun c
            .pause) ∧
      (ch.det.phase = .pause → quiet = true →
        k.decideFrame c true f = (k.releaseHeld c).decideRun c .pause) ∧
      (ch.det.phase = .pause → quiet = false → ch.det.loud + 1 < ch.settings.onset →
        k.decideFrame c true f =
          withDet { ch.det with loud := ch.det.loud + 1, hold := ch.det.hold ++ [f] }) ∧
      (ch.det.phase = .pause → quiet = false → ch.settings.onset ≤ ch.det.loud + 1 →
        k.decideFrame c true f =
          (ch.det.hold ++ [f]).foldl (fun acc g => acc.decideSpeech c g)
            (withDet { ch.det with phase := .speech, quiet := 0, loud := 0, hold := [] }))) ∧
  (∀ (k : Works) (c : Nat) (f : Frame),
      let lost := (k.releaseHeld c).decideRun c .lost
      let ch := lost.chan c
      k.decideFrame c false f =
        { lost with chans := lost.chans.set c { ch with det := { ch.det with phase := .speech, quiet := 0, loud := 0 } } }) ∧
  (∀ (k : Works) (c : Nat),
      let ch := k.chan c
      let emptied : Works := { k with chans := k.chans.set c { ch with det := { ch.det with hold := [] } } }
      let decided := ch.det.hold.foldl (fun acc _ => acc.decideRun c .pause) emptied
      let now := decided.chan c
      k.releaseHeld c = { decided with chans := decided.chans.set c { now with det := { now.det with loud := 0 } } })

/-- A speech frame of a RECORDING channel. With a free capture buffer its PENDING entry is placed as its mode has it, the
frame enters the capture pair with the channel's width, the continues flag of R13 and the entry's number, and sealing
follows (R2, R13, R40, R81). A frame that brings the length to 16,777,215 is kept so too, with LETTER_FULL raised and
the implicit STOP taken, at which held frames are counted as squeezed; one that would bring it beyond is dropped and
counted, with LETTER_FULL and the implicit STOP (R47). Without a free entry it is dropped and counted, and POOL_EMPTY
raised (R45); with both buffers occupied it is dropped at overrun, OVERRUN raised, and a LOST item decided (R110). One
that is decided after the implicit STOP of the same boundary is dropped and counted, and nothing else (R47; log 16,
DEDUCED). -/
def Obligations.SpeechFrameIsKeptOrDropped : Prop :=
  (∀ (k : Works) (c i : Nat) (mode : RecMode) (f : Frame), k.startup = .done → c < k.chans.length →
    i < k.letters.length → (k.chan c).letter = some i → (k.chan c).recMode = some mode →
    let ch := k.chan c
    let l := k.letter i
    let plan := planEntry mode l l.cursor ⟨k.nextEntry, .speech none⟩ (k.nextEntry + 1)
    let kept : Channel :=
      { ch with
        capture := ch.capture ++ [⟨f, ch.settings.width, ch.det.prevKept, k.nextEntry, false⟩],
        det := { ch.det with growing := none, prevKept := true } }
    let dropped : Channel :=
      { ch with dropped := min (ch.dropped + 1) 65535, det := { ch.det with growing := none, prevKept := false } }
    let full (events : List Event) : List Event := putEvent ⟨.letterFull, c, BitVec.ofNat 32 i, 0⟩ events
    (ch.capture.length < 2 → plan.longer = false ∨ l.length + 1 < 16777215 → plan.need ≤ k.freeEntries →
      k.decideSpeech c f = (k.placedAs c i mode plan kept).applySealing i) ∧
    (ch.capture.length < 2 → plan.longer = true → l.length + 1 = 16777215 → plan.need ≤ k.freeEntries →
      let placed := k.placedAs c i mode plan kept.spanEnded
      k.decideSpeech c f =
        ({ placed with
          letters := placed.letters.set i ((placed.letter i).squeezedBy ch.det.hold.length),
          events := full placed.events }).applySealing i) ∧
    (ch.capture.length < 2 → plan.longer = true → 16777215 ≤ l.length →
      k.decideSpeech c f =
        { k with
          letters := k.letters.set i (l.squeezedBy ch.det.hold.length), chans := k.chans.set c dropped.spanEnded,
          events := full k.events }) ∧
    (ch.capture.length < 2 → plan.longer = false ∨ l.length < 16777215 → k.freeEntries < plan.need →
      k.decideSpeech c f =
        { k with chans := k.chans.set c dropped, events := putEvent ⟨.poolEmpty, c, 0, 0⟩ k.events }) ∧
    (2 ≤ ch.capture.length →
      k.decideSpeech c f =
        ({ k with
            chans := k.chans.set c { ch with overrun := min (ch.overrun + 1) 65535 },
            events := putEvent ⟨.overrun, c, 0, 0⟩ k.events }).decideRun c .lost)) ∧
  (∀ (k : Works) (c i : Nat) (f : Frame), (k.chan c).letter = some i → (k.chan c).recMode = none →
    let ch := k.chan c
    k.decideSpeech c f =
      { k with
        chans := k.chans.set c
          { ch with dropped := min (ch.dropped + 1) 65535, det := { ch.det with prevKept := false } } })

/-- A pause item or LOST item beside a growing run of its kind with no mark at the write point: below the squeeze count
the run takes it and grows by 1; at the squeeze count it is squeezed out, counted, and the letter does not change
otherwise (R25, R26). Without such a run beside it, or with a mark at the write point, the item is a new run of count 1,
placed as its mode has it, which is the growing run from then on, and sealing follows; without a free entry it is
dropped and counted, POOL_EMPTY is raised, and no run grows (R25, R28, R40, R45). An item that brings the length to
16,777,215, by growth or as a new run, is placed so too, with LETTER_FULL raised and the implicit STOP taken, at which held
frames are counted as squeezed; one that would bring it beyond is counted as squeezed, with LETTER_FULL and the implicit
STOP (R47); and one decided after the implicit STOP of the same boundary is counted as squeezed, and nothing else (R47; log
16, DEDUCED). -/
def Obligations.RunsGrowToTheSqueezeCount : Prop :=
  (∀ (k : Works) (c i id n : Nat) (mode : RecMode) (kind : RunKind), c < k.chans.length → i < k.letters.length →
      (k.chan c).letter = some i → (k.chan c).recMode = some mode → (k.chan c).det.growing = some id →
      let ch := k.chan c
      let l := k.letter i
      (l.edit.find? fun e => decide (e.id = id)) = some ⟨id, .run kind n⟩ → (∀ m ∈ l.marks, m.pos ≠ l.cursor) →
      let chans := k.chans.set c { ch with det := { ch.det with prevKept := false } }
      (ch.settings.squeeze ≤ n →
        k.decideRun c kind =
          { k with
            chans := chans,
            letters := k.letters.set i { l with squeezed := min (l.squeezed + 1) 65535 } }) ∧
      (n < ch.settings.squeeze →
        let g := planGrowth mode l l.cursor id
        let shifted : List Mark :=
          match mode with
          | .insert => l.marks.map fun m => if l.cursor < m.pos then { m with pos := m.pos + 1 } else m
          | .overwrite => l.marks
        let grown : Letter :=
          { l with
            edit := g.edit, cursor := l.cursor + 1, length := if g.longer then l.length + 1 else l.length,
            marks := shifted }
        let taken : Works := { k with chans := chans, letters := k.letters.set i grown }
        let back := taken.given g.returned g.freed
        let full (events : List Event) : List Event := putEvent ⟨.letterFull, c, BitVec.ofNat 32 i, 0⟩ events
        (g.longer = false ∨ l.length + 1 < 16777215 → k.decideRun c kind = back.applySealing i) ∧
        (g.longer = true → l.length + 1 = 16777215 → k.startup = .done →
          k.decideRun c kind =
            ({ back with
              letters := back.letters.set i ((back.letter i).squeezedBy ch.det.hold.length),
              chans := back.chans.set c (back.chan c).spanEnded, events := full back.events }).applySealing i) ∧
        (g.longer = true → 16777215 ≤ l.length → k.startup = .done →
          k.decideRun c kind =
            { k with
              letters := k.letters.set i
                (({ l with squeezed := min (l.squeezed + 1) 65535 } : Letter).squeezedBy ch.det.hold.length),
              chans := k.chans.set c ({ ch with det := { ch.det with prevKept := false } } : Channel).spanEnded,
              events := full k.events }))) ∧
  (∀ (k : Works) (c i : Nat) (mode : RecMode) (kind : RunKind), k.startup = .done → c < k.chans.length →
    i < k.letters.length → (k.chan c).letter = some i → (k.chan c).recMode = some mode →
    let ch := k.chan c
    let l := k.letter i
    (∀ id e n, ch.det.growing = some id → (l.edit.find? fun e => decide (e.id = id)) = some e → e.body = .run kind n →
      ∃ m ∈ l.marks, m.pos = l.cursor) →
    let plan := planEntry mode l l.cursor ⟨k.nextEntry, .run kind 1⟩ (k.nextEntry + 1)
    let grows (id : Option Nat) : Channel := { ch with det := { ch.det with growing := id, prevKept := false } }
    let full (events : List Event) : List Event := putEvent ⟨.letterFull, c, BitVec.ofNat 32 i, 0⟩ events
    (plan.longer = false ∨ l.length + 1 < 16777215 → plan.need ≤ k.freeEntries →
      k.decideRun c kind = (k.placedAs c i mode plan (grows (some k.nextEntry))).applySealing i) ∧
    (plan.longer = true → l.length + 1 = 16777215 → plan.need ≤ k.freeEntries →
      let placed := k.placedAs c i mode plan (grows none).spanEnded
      k.decideRun c kind =
        ({ placed with
          letters := placed.letters.set i ((placed.letter i).squeezedBy ch.det.hold.length),
          events := full placed.events }).applySealing i) ∧
    (plan.longer = true → 16777215 ≤ l.length →
      k.decideRun c kind =
        { k with
          letters := k.letters.set i
            (({ l with squeezed := min (l.squeezed + 1) 65535 } : Letter).squeezedBy ch.det.hold.length),
          chans := k.chans.set c (grows none).spanEnded, events := full k.events }) ∧
    (plan.longer = false ∨ l.length < 16777215 → k.freeEntries < plan.need →
      k.decideRun c kind =
        { k with
          chans := k.chans.set c { grows none with dropped := min (ch.dropped + 1) 65535 },
          events := putEvent ⟨.poolEmpty, c, 0, 0⟩ k.events })) ∧
  (∀ (k : Works) (c i : Nat) (kind : RunKind), (k.chan c).letter = some i → (k.chan c).recMode = none →
    let l := k.letter i
    k.decideRun c kind =
      { k with letters := k.letters.set i { l with squeezed := min (l.squeezed + 1) 65535 } })

/-! ### Reviews and playback at a frame boundary -/

/-- What a REVIEWING channel sends for its play point: the frame of the buffer FILLED for it, which becomes SENDING;
zeros for a position of a run; and otherwise zeros without moving on, counted as late, with LATE raised, once output has
begun (R89, R91). Its boundary loads the staged settings first and ends a frame that was SENDING; and when the play
point has come to the stop point the review is over: the cursor is set there, the channel is READY, its last frame goes
out to the end, STOP_REACHED is raised, and sealing follows (R48, R73, R89, R94). -/
def Obligations.ReviewSendsRunOrStalls : Prop :=
  (∀ (k : Works) (c i p : Nat), k.startup = .done →
      let ch := k.chan c
      let zeros : Frame := List.replicate 160 0#16
      let free := (∀ f, ch.outX ≠ .filled p f) ∧ (∀ f, ch.outY ≠ .filled p f)
      (∀ f, ch.outX = .filled p f →
        k.reviewPosition c i p =
          { k with
            chans := k.chans.set c
              { ch with outX := .sending f, output := some f, playPoint := some (p + 1), outputBegun := true } }) ∧
      (∀ f, (∀ g, ch.outX ≠ .filled p g) → ch.outY = .filled p f →
        k.reviewPosition c i p =
          { k with
            chans := k.chans.set c
              { ch with outY := .sending f, output := some f, playPoint := some (p + 1), outputBegun := true } }) ∧
      (∀ id kind n, free → (k.letter i).entryAt p = some ⟨id, .run kind n⟩ →
        k.reviewPosition c i p =
          { k with
            chans := k.chans.set c { ch with output := some zeros, playPoint := some (p + 1), outputBegun := true } }) ∧
      (∀ id held, free → (k.letter i).entryAt p = some ⟨id, .speech held⟩ →
        k.reviewPosition c i p =
          { k with
            chans := k.chans.set c
              { ch with output := some zeros, late := if ch.outputBegun then min (ch.late + 1) 65535 else ch.late },
            events := if ch.outputBegun then putEvent ⟨.late, c, 0, 0⟩ k.events else k.events })) ∧
  (∀ (k : Works) (c i p stop : Nat) (locked : Bool), k.startup = .done → c < k.chans.length →
    (k.chan c).state = .reviewing → (k.chan c).letter = some i → (k.chan c).playPoint = some p →
    (k.chan c).stopPoint = some stop →
    let loaded := k.loadAtBoundary c
    let ch := loaded.chan c
    let sent : Works := { loaded with chans := loaded.chans.set c { ch with outX := ch.outX.sent, outY := ch.outY.sent } }
    let after := sent.reviewPosition c i p
    let now := after.chan c
    (now.playPoint ≠ some stop → k.otherBoundary c locked = after) ∧
      (now.playPoint = some stop →
        k.otherBoundary c locked =
          ({ after with
            letters := after.letters.set i { after.letter i with cursor := stop },
            chans := after.chans.set c
              { now with
                state := .ready, playPoint := none, prepPoint := none, stopPoint := none, outputBegun := false },
            events := putEvent ⟨.stopReached, c, BitVec.ofNat 32 stop, 0⟩ after.events }).applySealing i))

/-- A transcription channel with no record at its play point starves: STARVED with zeros and STARVED raised with the
play point; at its END record it enters ENDED and FEED_ENDED is raised with the final length; and where armed marks
stand, MARK_REACHED is raised with the last one's label, they are no longer armed, and an INSTRUCTION mark stops a
channel that halts on them with its output cut off (R153, R154, R155). Without END there it sends the buffer FILLED for
the position, zeros for a position of a PAUSE or LOST record, and for a SPEECH record not yet decoded zeros without
moving on, late once output has begun (R91, R152). At a boundary staged settings load first, and a frame that was SENDING
has gone out; a STOPPED or ENDED channel does no more (R94, R143, R162). A PLAYING channel goes on in the order of R152:
skipped positions of a trimmed PAUSE record are left, marks are reached, the position is sent unless a mark halted the
channel, records behind the retained tail are freed, and FEED_LOW is raised when the unplayed positions have come below the
feed low mark with END not fed (R150, R152, R161). While its play point is absent it starves with detail 0xFFFFFFFF. A
STARVED channel at whose play point a record stands is PLAYING again and goes on so at the same boundary; otherwise zeros go
out, and STARVED is not raised again (R154). What is freed is the longest front of the queue that ends at or before the play
point less the backspace setting, a MARK there standing before it, and never END (R156). -/
def Obligations.PlaybackMeetsMarksAndEnds : Prop :=
  (∀ (k : Works) (c p : Nat), k.startup = .done → c < k.chans.length → p ≤ 16777215 →
      let ch := k.chan c
      (ch.playPoint = some p → (∀ r ∈ ch.feed, ¬(r.pos ≤ p ∧ p < r.stop) ∧ ¬(r.isEnd = true ∧ r.pos = p)) →
        ch.filledSide p = none →
        k.playPosition c p =
          { k with
            chans := k.chans.set c { ch with state := .starved, output := some (List.replicate 160 0#16) },
            events := putEvent ⟨.starved, c, BitVec.ofNat 32 p, 0⟩ k.events }) ∧
      ((∃ r ∈ ch.feed, r.body = .endOf ∧ r.pos = p) →
        k.playPosition c p =
          { k with
            chans := k.chans.set c { ch with state := .ended, prepPoint := none },
            events := putEvent ⟨.feedEnded, c, BitVec.ofNat 32 p, 0⟩ k.events }) ∧
      (∀ passed kind label, armedAt ch.feed p = passed ++ [(kind, label)] →
        let disarmed : Channel := { ch with feed := disarmAt ch.feed p }
        let halts := ch.settings.haltOnInstruction = true ∧
          ∃ m ∈ passed ++ [(kind, label)], m.1 = MarkKind.instructionMark
        let events := putEvent ⟨.markReached, c, BitVec.ofNat 32 p, label⟩ k.events
        (halts →
          k.reachMarks c p =
            ({ k with
                events := events,
                chans := k.chans.set c { disarmed.outputCut with prepPoint := none, state := .stopped } }, true)) ∧
        (¬halts → k.reachMarks c p = ({ k with events := events, chans := k.chans.set c disarmed }, false))) ∧
      ((∀ r ∈ ch.feed, ∀ kind label, r.body = .mark kind label true → r.pos ≠ p) → k.reachMarks c p = (k, false))) ∧
  (∀ (k : Works) (c p : Nat), k.startup = .done → c < k.chans.length →
    let ch := k.chan c
    let zeros : Frame := List.replicate 160 0#16
    let with_ (d : Channel) : Works := { k with chans := k.chans.set c d }
    let free := (∀ f, ch.outX ≠ .filled p f) ∧ (∀ f, ch.outY ≠ .filled p f)
    (∀ r ∈ ch.feed, ¬(r.isEnd = true ∧ r.pos = p)) →
    (∀ f, ch.outX = .filled p f →
      k.playPosition c p =
        with_ { ch with outX := .sending f, output := some f, playPoint := some (p + 1), outputBegun := true }) ∧
    (∀ f, (∀ g, ch.outX ≠ .filled p g) → ch.outY = .filled p f →
      k.playPosition c p =
        with_ { ch with outY := .sending f, output := some f, playPoint := some (p + 1), outputBegun := true }) ∧
    (∀ before r after, free → ch.feed = before ++ r :: after → (∀ f ∈ before, ¬(f.pos ≤ p ∧ p < f.stop)) →
      r.pos ≤ p → p < r.stop →
      ((∀ slot, r.body ≠ .speech slot) →
        k.playPosition c p = with_ { ch with output := some zeros, playPoint := some (p + 1), outputBegun := true }) ∧
      (∀ slot, r.body = .speech slot →
        k.playPosition c p =
          { with_ { ch with
              output := some zeros, late := if ch.outputBegun then min (ch.late + 1) 65535 else ch.late } with
            events := if ch.outputBegun then putEvent ⟨.late, c, 0, 0⟩ k.events else k.events }))) ∧
  (∀ (k : Works) (c : Nat), k.startup = .done → c < k.chans.length →
    let before := k.chan c
    let loaded := k.loadAtBoundary c
    let ch := loaded.chan c
    let sent : Channel := { ch with outX := ch.outX.sent, outY := ch.outY.sent }
    let with_ (d : Channel) : Works := { loaded with chans := loaded.chans.set c d }
    let zeros : Frame := List.replicate 160 0#16
    let stands (p : Nat) := ∃ r ∈ ch.feed, (r.pos ≤ p ∧ p < r.stop) ∨ (r.stop = r.pos ∧ r.pos = p)
    (before.state = .stopped ∨ before.state = .ended → k.transcriptionBoundary c = with_ sent) ∧
    (before.state = .playing → before.playPoint = none →
      k.transcriptionBoundary c =
        { with_ { sent with state := .starved, output := some zeros } with
          events := putEvent ⟨.starved, c, 0xFFFFFFFF, 0⟩ loaded.events }) ∧
    (before.state = .starved → (∀ p, before.playPoint = some p → ¬stands p) →
      k.transcriptionBoundary c = with_ { sent with output := some zeros }) ∧
    (∀ p x, before.state = .playing ∨ (before.state = .starved ∧ stands p) → before.playPoint = some p →
      before.expected = some x →
      let trim := ch.settings.trim
      let at_ : Option FeedRec := ch.feed.find? fun r => decide (r.pos ≤ p) && decide (p < r.stop)
      let q : Nat :=
        match at_ with
        | some ⟨_, start, .pause n⟩ => if 1 ≤ trim ∧ trim ≤ p - start then start + n else p
        | _ => p
      let begun := with_ { sent with state := .playing, playPoint := some q }
      let marked := begun.reachMarks c q
      let played := if marked.2 then marked.1 else marked.1.playPosition c q
      let done := played.freeTail c
      let now := done.chan c
      let unplayed := now.expected.getD 0 - now.playPoint.getD 0
      let low := now.endFed = false ∧ now.settings.feedLow ≤ x - p ∧ unplayed < now.settings.feedLow
      k.transcriptionBoundary c =
        { done with events := if low then putEvent ⟨.feedLow, c, 0, 0⟩ done.events else done.events })) ∧
  (∀ (k : Works) (c p : Nat) (freed stay : List FeedRec), (k.chan c).playPoint = some p →
    let ch := k.chan c
    let edge := p - ch.settings.backspace
    let behind (r : FeedRec) : Prop :=
      match r.body with
      | .endOf => False
      | .mark _ _ _ => r.pos < edge
      | _ => r.stop ≤ edge
    ch.feed = freed ++ stay → (∀ r ∈ freed, behind r) → (∀ r rest, stay = r :: rest → ¬behind r) →
    k.freeTail c =
      ({ k with chans := k.chans.set c { ch with feed := stay } }.given freed.length (freed.filterMap FeedRec.slot)))

/-! ### Frame coding and slots -/

/-- The exponent of a frame is the smallest integer in 0..15 for which qmax × 2^e is at least the open-loop peak D, and
one exists for every peak up to 65535; a frame whose samples all equal its base takes e = 0 (R4). -/
def Obligations.ExponentIsTheSmallestThatReaches : Prop :=
  (∀ (w : Width) (peak : Nat), peak ≤ 65535 →
    exponentOf w peak ≤ 15 ∧ (peak : Int) ≤ w.qmax * 2 ^ exponentOf w peak ∧
      (∀ j, j < exponentOf w peak → w.qmax * 2 ^ j < (peak : Int)) ∧ (peak = 0 → exponentOf w peak = 0)) ∧
    ∀ (w : Width) (base : Sample) (f : Frame),
      openLoopPeak base.toInt (toInts f) ≤ 65535 ∧ ((∀ x ∈ f, x = base) → frameExponent w base f = 0)

/-- The closed loop stays within half a step of the input. Every code lies in -qmax..qmax, so that the clamp leaves it
unchanged; at e = 0 the reconstruction is the input and the code the open-loop difference; at e ≥ 1 the error x - r lies
in -h..h-1 with h = 2^(e-1) (R8). -/
def Obligations.EncoderStaysWithinHalfAStep : Prop :=
  ∀ (w : Width) (base : Sample) (f : Frame),
    let e := frameExponent w base f
    let steps := encodeSteps w base f
    steps.length = f.length ∧
      ∀ (n : Nat) (x : Sample) (q r : Int), f[n]? = some x → steps[n]? = some (q, r) →
        let before : Int := if n = 0 then base.toInt else ((f[n - 1]?).getD 0).toInt
        let predicted : Int := if n = 0 then base.toInt else (((steps[n - 1]?).map Prod.snd).getD 0)
        q ≤ w.qmax ∧ -w.qmax ≤ q ∧ q = unroundedCode e (x.toInt - predicted) ∧ -32768 ≤ r ∧ r ≤ 32767 ∧
          (e = 0 → r = x.toInt ∧ q = x.toInt - before) ∧
          (1 ≤ e → -(2 ^ (e - 1) : Int) ≤ x.toInt - r ∧ x.toInt - r ≤ 2 ^ (e - 1) - 1)

/-- Decoding the frame record of an ENCODE job gives, sample for sample, the reconstructions that the encoder computed,
the last of which is the carry (R7, R11). -/
def Obligations.DecodingGivesTheReconstructions : Prop :=
  ∀ (w : Width) (base : Sample) (f : Frame),
    decodeFrame (encodeFrame w base f) = (encodeSteps w base f).map (fun p => BitVec.ofInt 16 p.2) ∧
      (f ≠ [] → (decodeFrame (encodeFrame w base f)).getLast? = some (finalReconstruction w base f))

/-- A frame record survives its bytes: with an exponent of 0..15 and 160 codes of its width, its bytes have the size of
its width and read back as the same record, whatever follows them; every ENCODE job of a frame of 160 samples makes such
a record (R2, R16, R189). -/
def Obligations.FrameRecordSurvivesItsBytes : Prop :=
  (∀ (r : FrameRecord) (more : List Byte), r.exponent < 16 → r.codes.length = 160 →
    (∀ q ∈ r.codes, r.width.qmin ≤ q ∧ q ≤ r.width.qmax) →
    r.toBytes.length = r.width.recordBytes ∧ FrameRecord.ofBytes (r.toBytes ++ more) = r) ∧
    ∀ (w : Width) (base : Sample) (f : Frame), f.length = 160 →
      let r := encodeFrame w base f
      r.exponent < 16 ∧ r.codes.length = 160 ∧ ∀ q ∈ r.codes, w.qmin ≤ q ∧ q ≤ w.qmax

/-- A slot returns what was written into it, filled with zeros to its 84 bytes, and every other slot what it returned
before. A word with its parity holds an odd number of ones, and a read fails exactly when some word of it has an odd
number of bits wrong (R113, R114). Each of the 8192 slots holds contents, so that its read answers bytes or fails by its
parity; after power-on these are zeros with their parity, the model's choice (log 10). -/
def Obligations.SlotsReturnWhatWasWritten : Prop :=
  (∀ (st : Store) (slot : Nat) (bytes : List Byte), bytes.length ≤ 84 →
    (st.write slot bytes).read [] slot = .ok (some (bytes ++ List.replicate (84 - bytes.length) 0#8)) ∧
      ∀ (errs : List CellError) (other : Nat), other ≠ slot →
        (st.write slot bytes).read errs other = st.read errs other) ∧
    (∀ w : BitVec 16, oddOnes (withParity w) = true ∧ (withParity w).setWidth 16 = w) ∧
    (∀ (errs : List CellError) (slot : Nat) (words : List StoredWord), (∀ w ∈ words, oddOnes w = true) →
      (readPasses (readBack errs slot words) = false ↔
        ∃ i, i < words.length ∧ oddOnes (errorMask errs slot i) = true)) ∧
    ∀ slot, slot < 8192 →
      (∀ (st : Store) (errs : List CellError), ∃ got, st.read errs slot = .ok got) ∧
        Store.blank.read [] slot = .ok (some (List.replicate 84 0#8))

/-! ### Requests as a whole, and events -/

/-- During a scan every request but IDENTIFY, STATUS, DEFECTS and RESTART is refused with STARTING, and in a FAULTED
part with FAULTED, before any other check, and changes nothing (R181). -/
def Obligations.StartUpRefusesTheOtherRequests : Prop :=
  ∀ (s : State) (m : Message) (rest : List Message) (errs : List CellError) (command : Instr),
    s.AtFront m rest → s.works.startup ≠ .done →
    (command, m.kind) ∈
      [(Instr.reqConfigure, 0x03#8), (.reqPoll, 0x04#8), (.reqSet, 0x07#8), (.reqBind, 0x10#8), (.reqOpen, 0x11#8),
        (.reqAttach, 0x12#8), (.reqDetach, 0x13#8), (.reqEnd, 0x14#8), (.reqDiscard, 0x15#8), (.reqTruncate, 0x16#8)] ++
      [(.reqRecord, 0x20#8), (.reqStop, 0x21#8), (.reqWind, 0x22#8), (.reqReview, 0x23#8), (.reqMark, 0x24#8),
        (.reqUnmark, 0x25#8), (.reqMarklist, 0x26#8), (.reqTake errs, 0x30#8), (.reqLoad, 0x31#8), (.reqUnload, 0x32#8)] ++
      [(.reqFeed, 0x33#8), (.reqPlay, 0x34#8), (.reqHalt, 0x35#8), (.reqStep, 0x36#8)] →
    exec command s =
      .next (s.answered m rest ⟨if s.works.startup = .failed then .faulted else .starting, []⟩ s.works)

/-- A request that is refused changes nothing but the two queues, and its reply has no body; the one exception is the
overflow flag that a MARK refused with FULL sets (R65, R181). -/
def Obligations.RefusalsChangeNothing : Prop :=
  ∀ (s t : State) (m : Message) (rest : List Message) (command : Instr) (status : Status) (body : List Byte),
    s.AtFront m rest → exec command s = .next t → t.link.rx = rest →
    t.link.tx = makeRoom s.link.tx ++ replyBytes m ⟨status, body⟩ → status ≠ .ok → status ≠ .clamped →
    (m.kind = 0x24#8 → status ≠ .full) →
    t = s.answered m rest ⟨status, []⟩ s.works

/-- A raised flag stands once among the pending ones, in POLL order, with its new detail, and the others stay; ATTN is
asserted while a flag is pending whose kind the mask enables, and never while the part is held (R185, R186, R187, R191).
-/
def Obligations.RaisedFlagsStandInPollOrder : Prop :=
  (∀ (e : Event) (events : List Event), (events.Pairwise fun f g => f.key < g.key) →
    ((putEvent e events).Pairwise fun f g => f.key < g.key) ∧
      ∀ f, f ∈ putEvent e events ↔ f = e ∨ (f ∈ events ∧ f.key ≠ e.key)) ∧
    ∀ s : State, s.attn = true ↔
      s.resetAsserted = false ∧ ∃ e ∈ s.works.events, s.works.mask.getLsbD e.kind.maskBit = true

/-! ### What every step keeps -/

/-- The contents of the slots keep their canonical form at every step: slots strictly rising, each with its 42 words
(R113). -/
def Obligations.StoreKeepsItsForm : Prop :=
  ∀ s t : State, s.store.wf = true → step s = .next t → t.store.wf = true

/-- No two channels come to be bound to one timeslot of a direction, and the registers of the link, the line port and
the monitor stay in their ranges, at every step (R164, R170, R171, R174, R179). The messages received keep to the 4096
bytes of the receive queue with what is reserved for the one being assembled (R179), and the replies to the 2048 of the
transmit queue (R180), while the defect table keeps to 64 entries and the mark tables to 16 marks (R61, R118). -/
def Obligations.PortsStayInOrder : Prop :=
  (∀ s t : State, s.line.Exclusive → s.link.CountsFit → s.line.CounterFits → s.monitor.Sound → step s = .next t →
    t.line.Exclusive ∧ t.link.CountsFit ∧ t.line.CounterFits ∧ t.monitor.Sound) ∧
  (∀ s t : State, s.link.QueuesFit → s.works.TablesFit → step s = .next t → t.link.QueuesFit ∧ t.works.TablesFit)

/-- The pending flags stand once each in POLL order, and none is pending during a scan or in a FAULTED part, at every
step (R185, R186, R187). -/
def Obligations.EventsStayInOrder : Prop :=
  ∀ s t : State, s.works.EventsOrdered → s.works.QuietWhileStarting → step s = .next t →
    t.works.EventsOrdered ∧ t.works.QuietWhileStarting

/-- The free entries, the entries held in letters and the entries held in feed queues add up to 12,288 at every step,
with the order of channels and letters that this rests on (R33, R34, R35, R74, R75). -/
def Obligations.EntriesAddUpAtEveryStep : Prop :=
  ∀ s t : State, s.works.Accounted → step s = .next t → t.works.Accounted

/-- In every letter seal boundary, cursor and length stand in order, the edit list runs from the first to the last, and
at most 16 marks stand in order of position between them, each at the start of an entry of the edit list or at the length,
at every step (R38, R39, R60, R61), with what this rests on: entries in their places, growing runs at their write points,
reviews inside their letters, and frames that wait for PENDING entries. -/
def Obligations.LettersStayInOrder : Prop :=
  ∀ s t : State, s.works.Accounted → s.works.LettersInOrder → step s = .next t → t.works.LettersInOrder

/-- The free, held and retired slots are 8192 together once the scan is DONE, no slot standing in two places, at every
step; outside DONE no slot is free or held (R117, R118). -/
def Obligations.SlotsAddUpAtEveryStep : Prop :=
  ∀ s t : State, s.works.Accounted → s.works.LettersInOrder → s.works.SlotsAddUp → step s = .next t →
    t.works.SlotsAddUp

/-- The machine after reset meets every invariant that the steps keep. -/
def Obligations.ResetMeetsTheInvariants : Prop :=
  let s := State.reset
  s.store.wf = true ∧ s.line.Exclusive ∧ s.link.CountsFit ∧ s.line.CounterFits ∧ s.monitor.Sound ∧
    s.works.EventsOrdered ∧ s.works.QuietWhileStarting ∧ s.works.Accounted ∧ s.works.LettersInOrder ∧
    s.works.SlotsAddUp ∧ s.link.QueuesFit ∧ s.works.TablesFit
end

