-- ==== Sys2Proof/Laws/State.lean ====
section
/-! SUPPORT. One lemma for each field of each named update, true by computation, and reading back what was written. -/

namespace Sys2Proof.Machine

/-! ### Changing one channel -/

@[simp] theorem Works.modChan_startup (k : Works) (c : Nat) (g : Channel → Channel) : (k.modChan c g).startup = k.startup := rfl
@[simp] theorem Works.modChan_letters (k : Works) (c : Nat) (g : Channel → Channel) : (k.modChan c g).letters = k.letters := rfl
@[simp] theorem Works.modChan_freeEntries (k : Works) (c : Nat) (g : Channel → Channel) : (k.modChan c g).freeEntries = k.freeEntries := rfl
@[simp] theorem Works.modChan_nextEntry (k : Works) (c : Nat) (g : Channel → Channel) : (k.modChan c g).nextEntry = k.nextEntry := rfl
@[simp] theorem Works.modChan_freePool (k : Works) (c : Nat) (g : Channel → Channel) : (k.modChan c g).freePool = k.freePool := rfl
@[simp] theorem Works.modChan_factory (k : Works) (c : Nat) (g : Channel → Channel) : (k.modChan c g).factory = k.factory := rfl
@[simp] theorem Works.modChan_defects (k : Works) (c : Nat) (g : Channel → Channel) : (k.modChan c g).defects = k.defects := rfl
@[simp] theorem Works.modChan_unlisted (k : Works) (c : Nat) (g : Channel → Channel) : (k.modChan c g).unlisted = k.unlisted := rfl
@[simp] theorem Works.modChan_defectOverflow (k : Works) (c : Nat) (g : Channel → Channel) : (k.modChan c g).defectOverflow = k.defectOverflow := rfl
@[simp] theorem Works.modChan_slotMark (k : Works) (c : Nat) (g : Channel → Channel) : (k.modChan c g).slotMark = k.slotMark := rfl
@[simp] theorem Works.modChan_slotArmed (k : Works) (c : Nat) (g : Channel → Channel) : (k.modChan c g).slotArmed = k.slotArmed := rfl
@[simp] theorem Works.modChan_entryMark (k : Works) (c : Nat) (g : Channel → Channel) : (k.modChan c g).entryMark = k.entryMark := rfl
@[simp] theorem Works.modChan_entryArmed (k : Works) (c : Nat) (g : Channel → Channel) : (k.modChan c g).entryArmed = k.entryArmed := rfl
@[simp] theorem Works.modChan_events (k : Works) (c : Nat) (g : Channel → Channel) : (k.modChan c g).events = k.events := rfl
@[simp] theorem Works.modChan_mask (k : Works) (c : Nat) (g : Channel → Channel) : (k.modChan c g).mask = k.mask := rfl
@[simp] theorem Works.modChan_job (k : Works) (c : Nat) (g : Channel → Channel) : (k.modChan c g).job = k.job := rfl
@[simp] theorem Works.modChan_pointer (k : Works) (c : Nat) (g : Channel → Channel) : (k.modChan c g).pointer = k.pointer := rfl
@[simp] theorem Works.modChan_checked (k : Works) (c : Nat) (g : Channel → Channel) : (k.modChan c g).checked = k.checked := rfl
@[simp] theorem Works.modChan_scanBad (k : Works) (c : Nat) (g : Channel → Channel) : (k.modChan c g).scanBad = k.scanBad := rfl
@[simp] theorem Works.modChan_freeDraws (k : Works) (c : Nat) (g : Channel → Channel) : (k.modChan c g).freeDraws = k.freeDraws := rfl

/-! ### Changing one letter -/

@[simp] theorem Works.modLetter_startup (k : Works) (i : Nat) (g : Letter → Letter) : (k.modLetter i g).startup = k.startup := rfl
@[simp] theorem Works.modLetter_chans (k : Works) (i : Nat) (g : Letter → Letter) : (k.modLetter i g).chans = k.chans := rfl
@[simp] theorem Works.modLetter_freeEntries (k : Works) (i : Nat) (g : Letter → Letter) : (k.modLetter i g).freeEntries = k.freeEntries := rfl
@[simp] theorem Works.modLetter_nextEntry (k : Works) (i : Nat) (g : Letter → Letter) : (k.modLetter i g).nextEntry = k.nextEntry := rfl
@[simp] theorem Works.modLetter_freePool (k : Works) (i : Nat) (g : Letter → Letter) : (k.modLetter i g).freePool = k.freePool := rfl
@[simp] theorem Works.modLetter_factory (k : Works) (i : Nat) (g : Letter → Letter) : (k.modLetter i g).factory = k.factory := rfl
@[simp] theorem Works.modLetter_defects (k : Works) (i : Nat) (g : Letter → Letter) : (k.modLetter i g).defects = k.defects := rfl
@[simp] theorem Works.modLetter_unlisted (k : Works) (i : Nat) (g : Letter → Letter) : (k.modLetter i g).unlisted = k.unlisted := rfl
@[simp] theorem Works.modLetter_defectOverflow (k : Works) (i : Nat) (g : Letter → Letter) : (k.modLetter i g).defectOverflow = k.defectOverflow := rfl
@[simp] theorem Works.modLetter_slotMark (k : Works) (i : Nat) (g : Letter → Letter) : (k.modLetter i g).slotMark = k.slotMark := rfl
@[simp] theorem Works.modLetter_slotArmed (k : Works) (i : Nat) (g : Letter → Letter) : (k.modLetter i g).slotArmed = k.slotArmed := rfl
@[simp] theorem Works.modLetter_entryMark (k : Works) (i : Nat) (g : Letter → Letter) : (k.modLetter i g).entryMark = k.entryMark := rfl
@[simp] theorem Works.modLetter_entryArmed (k : Works) (i : Nat) (g : Letter → Letter) : (k.modLetter i g).entryArmed = k.entryArmed := rfl
@[simp] theorem Works.modLetter_events (k : Works) (i : Nat) (g : Letter → Letter) : (k.modLetter i g).events = k.events := rfl
@[simp] theorem Works.modLetter_mask (k : Works) (i : Nat) (g : Letter → Letter) : (k.modLetter i g).mask = k.mask := rfl
@[simp] theorem Works.modLetter_job (k : Works) (i : Nat) (g : Letter → Letter) : (k.modLetter i g).job = k.job := rfl
@[simp] theorem Works.modLetter_pointer (k : Works) (i : Nat) (g : Letter → Letter) : (k.modLetter i g).pointer = k.pointer := rfl
@[simp] theorem Works.modLetter_checked (k : Works) (i : Nat) (g : Letter → Letter) : (k.modLetter i g).checked = k.checked := rfl
@[simp] theorem Works.modLetter_scanBad (k : Works) (i : Nat) (g : Letter → Letter) : (k.modLetter i g).scanBad = k.scanBad := rfl
@[simp] theorem Works.modLetter_freeDraws (k : Works) (i : Nat) (g : Letter → Letter) : (k.modLetter i g).freeDraws = k.freeDraws := rfl

/-! ### A channel whose output is cut off -/

@[simp] theorem Channel.cutOff_kind (ch : Channel) : ch.cutOff.kind = ch.kind := rfl
@[simp] theorem Channel.cutOff_state (ch : Channel) : ch.cutOff.state = ch.state := rfl
@[simp] theorem Channel.cutOff_letter (ch : Channel) : ch.cutOff.letter = ch.letter := rfl
@[simp] theorem Channel.cutOff_recMode (ch : Channel) : ch.cutOff.recMode = ch.recMode := rfl
@[simp] theorem Channel.cutOff_pendingMode (ch : Channel) : ch.cutOff.pendingMode = ch.pendingMode := rfl
@[simp] theorem Channel.cutOff_captureStarted (ch : Channel) : ch.cutOff.captureStarted = ch.captureStarted := rfl
@[simp] theorem Channel.cutOff_filling (ch : Channel) : ch.cutOff.filling = ch.filling := rfl
@[simp] theorem Channel.cutOff_capture (ch : Channel) : ch.cutOff.capture = ch.capture := rfl
@[simp] theorem Channel.cutOff_playPoint (ch : Channel) : ch.cutOff.playPoint = ch.playPoint := rfl
@[simp] theorem Channel.cutOff_prepPoint (ch : Channel) : ch.cutOff.prepPoint = ch.prepPoint := rfl
@[simp] theorem Channel.cutOff_stopPoint (ch : Channel) : ch.cutOff.stopPoint = ch.stopPoint := rfl
@[simp] theorem Channel.cutOff_outputBegun (ch : Channel) : ch.cutOff.outputBegun = ch.outputBegun := rfl
@[simp] theorem Channel.cutOff_settings (ch : Channel) : ch.cutOff.settings = ch.settings := rfl
@[simp] theorem Channel.cutOff_staged (ch : Channel) : ch.cutOff.staged = ch.staged := rfl
@[simp] theorem Channel.cutOff_dropped (ch : Channel) : ch.cutOff.dropped = ch.dropped := rfl
@[simp] theorem Channel.cutOff_overrun (ch : Channel) : ch.cutOff.overrun = ch.overrun := rfl
@[simp] theorem Channel.cutOff_late (ch : Channel) : ch.cutOff.late = ch.late := rfl
@[simp] theorem Channel.cutOff_carry (ch : Channel) : ch.cutOff.carry = ch.carry := rfl
@[simp] theorem Channel.cutOff_det (ch : Channel) : ch.cutOff.det = ch.det := rfl
@[simp] theorem Channel.cutOff_expected (ch : Channel) : ch.cutOff.expected = ch.expected := rfl
@[simp] theorem Channel.cutOff_endFed (ch : Channel) : ch.cutOff.endFed = ch.endFed := rfl
@[simp] theorem Channel.cutOff_feed (ch : Channel) : ch.cutOff.feed = ch.feed := rfl

/-! ### A channel that closes -/

@[simp] theorem Channel.close_recMode (ch : Channel) : ch.close.recMode = ch.recMode := rfl
@[simp] theorem Channel.close_pendingMode (ch : Channel) : ch.close.pendingMode = ch.pendingMode := rfl
@[simp] theorem Channel.close_captureStarted (ch : Channel) : ch.close.captureStarted = ch.captureStarted := rfl
@[simp] theorem Channel.close_filling (ch : Channel) : ch.close.filling = ch.filling := rfl
@[simp] theorem Channel.close_capture (ch : Channel) : ch.close.capture = ch.capture := rfl
@[simp] theorem Channel.close_outX (ch : Channel) : ch.close.outX = ch.outX := rfl
@[simp] theorem Channel.close_outY (ch : Channel) : ch.close.outY = ch.outY := rfl
@[simp] theorem Channel.close_output (ch : Channel) : ch.close.output = ch.output := rfl
@[simp] theorem Channel.close_playPoint (ch : Channel) : ch.close.playPoint = ch.playPoint := rfl
@[simp] theorem Channel.close_prepPoint (ch : Channel) : ch.close.prepPoint = ch.prepPoint := rfl
@[simp] theorem Channel.close_stopPoint (ch : Channel) : ch.close.stopPoint = ch.stopPoint := rfl
@[simp] theorem Channel.close_outputBegun (ch : Channel) : ch.close.outputBegun = ch.outputBegun := rfl
@[simp] theorem Channel.close_generation (ch : Channel) : ch.close.generation = ch.generation := rfl
@[simp] theorem Channel.close_settings (ch : Channel) : ch.close.settings = ch.settings := rfl
@[simp] theorem Channel.close_staged (ch : Channel) : ch.close.staged = ch.staged := rfl
@[simp] theorem Channel.close_dropped (ch : Channel) : ch.close.dropped = ch.dropped := rfl
@[simp] theorem Channel.close_overrun (ch : Channel) : ch.close.overrun = ch.overrun := rfl
@[simp] theorem Channel.close_late (ch : Channel) : ch.close.late = ch.late := rfl
@[simp] theorem Channel.close_carry (ch : Channel) : ch.close.carry = ch.carry := rfl
@[simp] theorem Channel.close_det (ch : Channel) : ch.close.det = ch.det := rfl
@[simp] theorem Channel.close_expected (ch : Channel) : ch.close.expected = ch.expected := rfl
@[simp] theorem Channel.close_endFed (ch : Channel) : ch.close.endFed = ch.endFed := rfl
@[simp] theorem Channel.close_feed (ch : Channel) : ch.close.feed = ch.feed := rfl

/-! ### A request answered -/

@[simp] theorem State.answered_pending (s : State) (m : Message) (rest : List Message) (r : Reply) (k : Works) :
    (s.answered m rest r k).pending = s.pending := rfl
@[simp] theorem State.answered_resetAsserted (s : State) (m : Message) (rest : List Message) (r : Reply) (k : Works) :
    (s.answered m rest r k).resetAsserted = s.resetAsserted := rfl
@[simp] theorem State.answered_lastCause (s : State) (m : Message) (rest : List Message) (r : Reply) (k : Works) :
    (s.answered m rest r k).lastCause = s.lastCause := rfl
@[simp] theorem State.answered_line (s : State) (m : Message) (rest : List Message) (r : Reply) (k : Works) :
    (s.answered m rest r k).line = s.line := rfl
@[simp] theorem State.answered_monitor (s : State) (m : Message) (rest : List Message) (r : Reply) (k : Works) :
    (s.answered m rest r k).monitor = s.monitor := rfl
@[simp] theorem State.answered_store (s : State) (m : Message) (rest : List Message) (r : Reply) (k : Works) :
    (s.answered m rest r k).store = s.store := rfl
@[simp] theorem State.answered_works (s : State) (m : Message) (rest : List Message) (r : Reply) (k : Works) :
    (s.answered m rest r k).works = k := rfl
@[simp] theorem State.placeReply_pending (s : State) (m : Message) (r : Reply) : (s.placeReply m r).pending = s.pending := rfl
@[simp] theorem State.placeReply_resetAsserted (s : State) (m : Message) (r : Reply) : (s.placeReply m r).resetAsserted = s.resetAsserted := rfl
@[simp] theorem State.placeReply_lastCause (s : State) (m : Message) (r : Reply) : (s.placeReply m r).lastCause = s.lastCause := rfl
@[simp] theorem State.placeReply_line (s : State) (m : Message) (r : Reply) : (s.placeReply m r).line = s.line := rfl
@[simp] theorem State.placeReply_monitor (s : State) (m : Message) (r : Reply) : (s.placeReply m r).monitor = s.monitor := rfl
@[simp] theorem State.placeReply_store (s : State) (m : Message) (r : Reply) : (s.placeReply m r).store = s.store := rfl
@[simp] theorem State.placeReply_works (s : State) (m : Message) (r : Reply) : (s.placeReply m r).works = s.works := rfl

/-! ### Reading back -/

/-- Changing a channel leaves the number of channels. -/
@[simp] theorem Works.modChan_chans_length (k : Works) (c : Nat) (g : Channel → Channel) :
    (k.modChan c g).chans.length = k.chans.length := by simp [Works.modChan]

/-- Changing a letter leaves the number of letters. -/
@[simp] theorem Works.modLetter_letters_length (k : Works) (i : Nat) (g : Letter → Letter) :
    (k.modLetter i g).letters.length = k.letters.length := by simp [Works.modLetter]

/-- A channel that exists reads as it was changed. -/
theorem Works.chan_modChan_self (k : Works) (c : Nat) (g : Channel → Channel) (h : c < k.chans.length) :
    (k.modChan c g).chan c = g (k.chan c) := by
  simp [Works.chan, Works.modChan, List.getD_eq_getElem?_getD, List.getElem?_set_self h]

/-- Another channel reads as before. -/
@[simp] theorem Works.chan_modChan_ne (k : Works) (c d : Nat) (g : Channel → Channel) (h : d ≠ c) :
    (k.modChan c g).chan d = k.chan d := by
  simp [Works.chan, Works.modChan, List.getD_eq_getElem?_getD, List.getElem?_set_ne (Ne.symm h)]

/-- Changing a letter leaves the channels. -/
@[simp] theorem Works.chan_modLetter (k : Works) (i c : Nat) (g : Letter → Letter) :
    (k.modLetter i g).chan c = k.chan c := rfl

/-- A letter record that exists reads as it was changed. -/
theorem Works.letter_modLetter_self (k : Works) (i : Nat) (g : Letter → Letter) (h : i < k.letters.length) :
    (k.modLetter i g).letter i = g (k.letter i) := by
  simp [Works.letter, Works.modLetter, List.getD_eq_getElem?_getD, List.getElem?_set_self h]

/-- Another letter reads as before. -/
@[simp] theorem Works.letter_modLetter_ne (k : Works) (i j : Nat) (g : Letter → Letter) (h : j ≠ i) :
    (k.modLetter i g).letter j = k.letter j := by
  simp [Works.letter, Works.modLetter, List.getD_eq_getElem?_getD, List.getElem?_set_ne (Ne.symm h)]

/-- Changing a channel leaves the letters. -/
@[simp] theorem Works.letter_modChan (k : Works) (c i : Nat) (g : Channel → Channel) :
    (k.modChan c g).letter i = k.letter i := rfl

/-- Writing back what stands at an index changes nothing. -/
theorem set_getD_self {α : Type} (xs : List α) (n : Nat) (d : α) : xs.set n (xs.getD n d) = xs := by
  apply List.ext_getElem?
  intro m
  rw [List.getElem?_set]
  by_cases h : n = m
  · subst h
    by_cases hn : n < xs.length
    · simp [hn, List.getD_eq_getElem?_getD]
    · simp [hn]
  · simp [h]

/-- Two changes of one channel are one. -/
theorem Works.modChan_modChan (k : Works) (c : Nat) (f g : Channel → Channel) :
    (k.modChan c f).modChan c g = k.modChan c fun ch => g (f ch) := by
  by_cases h : c < k.chans.length
  · simp only [Works.modChan, Works.chan, List.set_set]
    simp [List.getD_eq_getElem?_getD, List.getElem?_set_self h]
  · have h' : k.chans.length ≤ c := Nat.le_of_not_lt h
    simp [Works.modChan, List.set_eq_of_length_le h']

/-- Two changes of one letter are one. -/
theorem Works.modLetter_modLetter (k : Works) (i : Nat) (f g : Letter → Letter) :
    (k.modLetter i f).modLetter i g = k.modLetter i fun l => g (f l) := by
  by_cases h : i < k.letters.length
  · simp only [Works.modLetter, Works.letter, List.set_set]
    simp [List.getD_eq_getElem?_getD, List.getElem?_set_self h]
  · have h' : k.letters.length ≤ i := Nat.le_of_not_lt h
    simp [Works.modLetter, List.set_eq_of_length_le h']

/-- A change that keeps the channel changes nothing. -/
theorem Works.modChan_eq_self (k : Works) (c : Nat) (g : Channel → Channel) (h : g (k.chan c) = k.chan c) :
    k.modChan c g = k := by
  have e : k.chans.set c (g (k.chan c)) = k.chans := by rw [h]; exact set_getD_self k.chans c Channel.initial
  simp only [Works.modChan, e]

/-- Changes of a channel and of a letter do not meet. -/
theorem Works.modLetter_modChan (k : Works) (c i : Nat) (f : Channel → Channel) (g : Letter → Letter) :
    (k.modChan c f).modLetter i g = (k.modLetter i g).modChan c f := rfl

end Sys2Proof.Machine
end

