-- ==== Sys2Proof/Laws/EditList.lean ====
section
/-! SUPPORT. Cutting an edit list at a position, and what the shared operations on it leave alone. -/

namespace Sys2Proof.Machine

/-! ### Cuts (R38) -/

/-- A cut takes the list apart. -/
theorem cutAt_append (w s : Nat) (es : List Entry) : (cutAt w s es).before ++ (cutAt w s es).rest = es := by
  induction es generalizing s with
  | nil => rfl
  | cons e es ih =>
    unfold cutAt
    split
    · simpa using ih (s + e.count)
    · rfl

/-- The rest starts where what is before it ends. -/
theorem cutAt_start (w s : Nat) (es : List Entry) : (cutAt w s es).start = s + spanOf (cutAt w s es).before := by
  induction es generalizing s with
  | nil => rfl
  | cons e es ih =>
    unfold cutAt
    split
    · simp only [ih (s + e.count), spanOf, List.map_cons, List.sum_cons]; omega
    · simp [spanOf]

/-- The first entry of the rest ends beyond the position. -/
theorem cutAt_holds {w s : Nat} {es post : List Entry} {e : Entry} (h : (cutAt w s es).rest = e :: post) :
    w < (cutAt w s es).start + e.count := by
  induction es generalizing s with
  | nil => simp [cutAt] at h
  | cons f es ih =>
    by_cases hf : s + f.count ≤ w
    · simp only [cutAt, hf, if_true] at h ⊢; exact ih h
    · simp only [cutAt, hf, if_false, List.cons.injEq] at h ⊢
      obtain ⟨rfl, _⟩ := h
      omega

/-- A position at or after the start of the list is at or after the start of the rest. -/
theorem cutAt_start_le {w s : Nat} (es : List Entry) (h : s ≤ w) : (cutAt w s es).start ≤ w := by
  induction es generalizing s with
  | nil => exact h
  | cons e es ih =>
    by_cases he : s + e.count ≤ w
    · simp only [cutAt, he, if_true]; exact ih he
    · simp only [cutAt, he, if_false]; exact h

/-- A position at or beyond the end of the list leaves no rest, when no entry is empty. -/
theorem cutAt_beyond {w s : Nat} (es : List Entry) (h : s + spanOf es ≤ w) :
    (cutAt w s es).before = es ∧ (cutAt w s es).rest = [] := by
  induction es generalizing s with
  | nil => exact ⟨rfl, rfl⟩
  | cons e es ih =>
    have hs : s + e.count + spanOf es ≤ w := by
      simp only [spanOf, List.map_cons, List.sum_cons] at h ⊢; omega
    have he : s + e.count ≤ w := by omega
    simp only [cutAt, he, if_true]
    exact ⟨by rw [(ih hs).1], (ih hs).2⟩

/-- A position that an entry holds cuts the list before that entry. -/
theorem cutAt_inside {w s : Nat} {es after : List Entry} {e : Entry} (before : List Entry) (h : es = before ++ e :: after)
    (low : s + spanOf before ≤ w) (high : w < s + spanOf before + e.count) :
    cutAt w s es = ⟨before, s + spanOf before, e :: after⟩ := by
  subst h
  induction before generalizing s with
  | nil =>
    have : ¬s + e.count ≤ w := by simp [spanOf] at high; omega
    simp [cutAt, this, spanOf]
  | cons f before ih =>
    have hs : spanOf (f :: before) = f.count + spanOf before := by simp [spanOf]
    have hf : s + f.count ≤ w := by omega
    simp only [List.cons_append, cutAt, hf, if_true]
    rw [ih (s := s + f.count) (by omega) (by omega), hs]
    simp [Nat.add_assoc]

/-- The entry found at a position is a CODED SPEECH entry exactly when one starts there (R38, R99). -/
theorem Letter.entryAt_coded (l : Letter) (q : Nat) :
    (∃ e, l.entryAt q = some e ∧ e.slot.isSome = true) ↔
      ∃ before e after slot, l.edit = before ++ e :: after ∧ e.body = .speech (some slot) ∧
        q = l.sealB + spanOf before := by
  constructor
  · rintro ⟨⟨id, body⟩, h, hs⟩
    by_cases hq : q < l.sealB
    · simp [Letter.entryAt, hq] at h
    · simp only [Letter.entryAt, hq, if_false, Letter.cut] at h
      obtain ⟨slot, rfl⟩ : ∃ slot, body = .speech (some slot) := by
        cases body with
        | run => simp [Entry.slot] at hs
        | speech o => cases o <;> simp_all [Entry.slot]
      obtain ⟨post, hr⟩ := List.head?_eq_some_iff.1 h
      have hb := cutAt_holds hr
      have hl := cutAt_start_le (w := q) (s := l.sealB) l.edit (by omega)
      have hs := cutAt_start q l.sealB l.edit
      simp only [Entry.count, EntryBody.count] at hb
      exact ⟨(cutAt q l.sealB l.edit).before, ⟨id, .speech (some slot)⟩, post, slot,
        by rw [← hr]; exact (cutAt_append q l.sealB l.edit).symm, rfl, by omega⟩
  · rintro ⟨before, ⟨id, body⟩, after, slot, h, rfl, hq⟩
    have hc := cutAt_inside (w := q) (s := l.sealB) before h (by omega) (by simp [Entry.count, EntryBody.count]; omega)
    refine ⟨⟨id, .speech (some slot)⟩, ?_, by simp [Entry.slot]⟩
    simp [Letter.entryAt, Letter.cut, hc]
    omega

/-! ### Spans and lengths -/

/-- The span of two lists together. -/
theorem spanOf_append (a b : List Entry) : spanOf (a ++ b) = spanOf a + spanOf b := by simp [spanOf]

/-- The span of one more entry. -/
theorem spanOf_cons (e : Entry) (es : List Entry) : spanOf (e :: es) = e.count + spanOf es := by simp [spanOf]

/-- A piece of a run covers what is left of it. -/
theorem spanOf_runPiece (id : Nat) (kind : RunKind) (n : Nat) : spanOf (runPiece id kind n) = n := by
  unfold runPiece
  split
  · simp [spanOf, *]
  · simp [spanOf, Entry.count, EntryBody.count]

/-- A piece of a run is one entry or none. -/
theorem runPiece_length (id : Nat) (kind : RunKind) (n : Nat) :
    (runPiece id kind n).length = if n = 0 then 0 else 1 := by
  unfold runPiece
  split <;> simp [*]

/-- Changing the body of an entry keeps how many there are. -/
theorem setBody_length (id : Nat) (body : EntryBody) (es : List Entry) : (setBody id body es).length = es.length := by
  simp [setBody]

/-- Growing a run keeps how many entries there are. -/
theorem bumpRun_length (id : Nat) (es : List Entry) : (bumpRun id es).length = es.length := by simp [bumpRun]

/-- What seals and what stays are the list. -/
theorem sealSplit_append (bound s : Nat) (es : List Entry) :
    (sealSplit bound s es).1 ++ (sealSplit bound s es).2 = es := by
  induction es generalizing s with
  | nil => rfl
  | cons e es ih =>
    unfold sealSplit
    split
    · simpa using ih (s + e.count)
    · rfl

/-- What seals ends at or before the bound and is not PENDING. -/
theorem sealSplit_sealed (bound s : Nat) (es : List Entry) :
    (∀ e ∈ (sealSplit bound s es).1, e.isPending = false) ∧
      ((sealSplit bound s es).1 ≠ [] → s + spanOf (sealSplit bound s es).1 ≤ bound) := by
  induction es generalizing s with
  | nil => exact ⟨by simp [sealSplit], by simp [sealSplit]⟩
  | cons e es ih =>
    unfold sealSplit
    split
    · rename_i h
      simp only [Bool.and_eq_true, decide_eq_true_eq, Bool.not_eq_true'] at h
      refine ⟨fun f hf => ?_, fun _ => ?_⟩
      · rcases List.mem_cons.1 hf with rfl | hf
        · exact h.2
        · exact (ih (s + e.count)).1 f hf
      · by_cases hn : (sealSplit bound (s + e.count) es).1 = []
        · simp only [hn, spanOf, List.map_cons, List.map_nil, List.sum_cons, List.sum_nil]; omega
        · have := (ih (s + e.count)).2 hn
          rw [spanOf_cons]; omega
    · exact ⟨by simp, by simp⟩

/-- Sealed entries are the entries that were moved, in order. -/
theorem withMarks_entries (ms : List Mark) (s : Nat) (es : List Entry) :
    (withMarks ms s es).map SealedEntry.entry = es := by
  induction es generalizing s with
  | nil => rfl
  | cons e es ih => simp [withMarks, ih]

/-- The start of the entry that holds the cursor; with the cursor at or past the end, of the last one (R49). -/
theorem holderStart_eq {cursor : Nat} (before : List Entry) (s : Nat) (holder : Entry) (after : List Entry)
    (hc : ∀ e ∈ before ++ holder :: after, 1 ≤ e.count)
    (h : (s + spanOf before ≤ cursor ∧ cursor < s + spanOf before + holder.count) ∨
      (after = [] ∧ s + spanOf (before ++ holder :: after) ≤ cursor)) :
    holderStart cursor s (before ++ holder :: after) = s + spanOf before := by
  induction before generalizing s with
  | nil =>
    cases after with
    | nil => simp [holderStart, spanOf]
    | cons a as =>
      rcases h with h | h
      · simp only [List.nil_append, holderStart]
        simp only [spanOf, List.map_nil, List.sum_nil, Nat.add_zero] at h ⊢
        rw [if_pos h.2]
      · exact absurd h.1 (by simp)
  | cons b bs ih =>
    have ih := ih (s + b.count) (fun e he => hc e (List.mem_cons_of_mem _ he)) (by
      rcases h with h | h
      · rw [spanOf_cons] at h
        exact Or.inl (by omega)
      · rw [List.cons_append, spanOf_cons] at h
        exact Or.inr ⟨h.1, by omega⟩)
    have hcur : ¬cursor < s + b.count := by
      rcases h with h | h
      · rw [spanOf_cons] at h
        omega
      · have h2 := h.2
        rw [List.cons_append, spanOf_cons] at h2
        omega
    have e : holderStart cursor s (b :: (bs ++ holder :: after)) =
        holderStart cursor (s + b.count) (bs ++ holder :: after) := by
      obtain ⟨x, xs, hx⟩ : ∃ x xs, bs ++ holder :: after = x :: xs := by cases bs <;> simp
      rw [hx]
      simp only [holderStart]
      rw [if_neg hcur]
    rw [List.cons_append, e, ih, spanOf_cons]
    omega

/-- Each entry that seals ends at or before the bound and is not PENDING. -/
theorem sealSplit_moved {bound s : Nat} {es front rest : List Entry} {e : Entry}
    (h : (sealSplit bound s es).1 = front ++ e :: rest) : s + spanOf front + e.count ≤ bound ∧ e.isPending = false := by
  induction es generalizing s front with
  | nil => simp [sealSplit] at h
  | cons a as ih =>
    unfold sealSplit at h
    split at h
    · rename_i hc
      simp only [Bool.and_eq_true, decide_eq_true_eq, Bool.not_eq_true'] at hc
      cases front with
      | nil =>
        simp only [List.nil_append, List.cons.injEq] at h
        obtain ⟨rfl, -⟩ := h
        simpa [spanOf] using hc
      | cons f fs =>
        simp only [List.cons_append, List.cons.injEq] at h
        obtain ⟨rfl, h⟩ := h
        have := ih h
        rw [spanOf_cons]
        exact ⟨by omega, this.2⟩
    · simp at h

/-- The front entry of what stays ends beyond the bound or is PENDING. -/
theorem sealSplit_kept {bound s : Nat} {es rest : List Entry} {e : Entry} (h : (sealSplit bound s es).2 = e :: rest) :
    ¬(s + spanOf (sealSplit bound s es).1 + e.count ≤ bound ∧ e.isPending = false) := by
  induction es generalizing s with
  | nil => simp [sealSplit] at h
  | cons a as ih =>
    unfold sealSplit at h ⊢
    split at h
    · rename_i hc
      simp only [hc, if_true]
      have := ih h
      rw [spanOf_cons]
      simpa [Nat.add_assoc] using this
    · rename_i hc
      simp only [hc]
      simp only [List.cons.injEq] at h
      obtain ⟨rfl, -⟩ := h
      simpa [spanOf] using hc

/-- Each sealed entry takes the marks at its start along. -/
theorem withMarks_mem (ms : List Mark) (s : Nat) (front : List Entry) (e : Entry) (rest : List Entry) :
    ⟨e, ms.filter fun m => decide (m.pos = s + spanOf front)⟩ ∈ withMarks ms s (front ++ e :: rest) := by
  induction front generalizing s with
  | nil => simp [withMarks, spanOf]
  | cons f fs ih =>
    simp only [List.cons_append, withMarks, List.mem_cons]
    right
    rw [spanOf_cons, ← Nat.add_assoc]
    exact ih _

end Sys2Proof.Machine
end

