-- ==== Sys2Proof/Laws/Events.lean ====
section
/-! SUPPORT. What raising an event, and comparing a low mark, can change: the pending flags and the mark's own flag. -/

namespace Sys2Proof.Machine

/-- With the scan DONE a raise puts its flag among the pending ones (R185). -/
theorem Works.raiseWith_done {k : Works} (h : k.startup = .done) (kind : EventKind) (c : Nat) (detail : BitVec 32)
    (label : BitVec 16) :
    k.raiseWith kind c detail label = { k with events := putEvent ⟨kind, c, detail, label⟩ k.events } := by
  simp [Works.raiseWith, h]

/-- During a scan and in a FAULTED part a raise sets no flag (R185). -/
theorem Works.raiseWith_quiet {k : Works} (h : k.startup ≠ .done) (kind : EventKind) (c : Nat) (detail : BitVec 32)
    (label : BitVec 16) : k.raiseWith kind c detail label = k := by
  simp [Works.raiseWith, h]

/-- A raise changes the pending flags and nothing else. -/
theorem Works.raiseWith_eq (k : Works) (kind : EventKind) (c : Nat) (detail : BitVec 32) (label : BitVec 16) :
    k.raiseWith kind c detail label = { k with events := (k.raiseWith kind c detail label).events } := by
  unfold Works.raiseWith
  split <;> rfl

/-- A comparison after taking slots changes the mark's flag and the pending flags and nothing else (R128). -/
theorem Works.slotsTaken_eq (k : Works) :
    k.slotsTaken = { k with slotArmed := k.slotsTaken.slotArmed, events := k.slotsTaken.events } := by
  unfold Works.slotsTaken
  split
  · rw [Works.raiseDevice, Works.raiseWith_eq]
  · rfl

/-- The same for entries (R129). -/
theorem Works.entriesTaken_eq (k : Works) :
    k.entriesTaken = { k with entryArmed := k.entriesTaken.entryArmed, events := k.entriesTaken.events } := by
  unfold Works.entriesTaken
  split
  · rw [Works.raiseDevice, Works.raiseWith_eq]
  · rfl

/-- A comparison after freeing slots changes the mark's flag and nothing else (R128). -/
theorem Works.slotsFreed_eq (k : Works) : k.slotsFreed = { k with slotArmed := k.slotsFreed.slotArmed } := by
  unfold Works.slotsFreed
  split <;> rfl

/-- The same for entries (R129). -/
theorem Works.entriesFreed_eq (k : Works) : k.entriesFreed = { k with entryArmed := k.entriesFreed.entryArmed } := by
  unfold Works.entriesFreed
  split <;> rfl

/-- Applying sealing changes letters, channels and the pending flags and nothing else (R48). -/
theorem Works.applySealing_eq (k : Works) (i : Nat) :
    k.applySealing i =
      { k with letters := (k.applySealing i).letters, chans := (k.applySealing i).chans,
               events := (k.applySealing i).events } := by
  unfold Works.applySealing
  dsimp only
  split
  · split
    · rfl
    · split
      · rw [Works.raise, Works.raiseWith_eq]; rfl
      · rfl
  · rfl

/-- A grant changes the job, the channels and the rotation pointer and nothing else (R101, R102). -/
theorem Works.grantIfIdle_eq (k : Works) :
    k.grantIfIdle =
      { k with job := k.grantIfIdle.job, chans := k.grantIfIdle.chans, pointer := k.grantIfIdle.pointer } := by
  have hE : ∀ (k : Works) c, k.grantEncode c =
      { k with job := (k.grantEncode c).job, chans := (k.grantEncode c).chans } := by
    intro k c; unfold Works.grantEncode; dsimp only; split <;> rfl
  have hR : ∀ (k : Works) c, k.grantReview c =
      { k with job := (k.grantReview c).job, chans := (k.grantReview c).chans } := by
    intro k c; unfold Works.grantReview; dsimp only; split <;> rfl
  have hF : ∀ (k : Works) c, k.grantFeed c =
      { k with job := (k.grantFeed c).job, chans := (k.grantFeed c).chans } := by
    intro k c; unfold Works.grantFeed; dsimp only; split <;> rfl
  unfold Works.grantIfIdle
  split
  · rfl
  · split
    · rename_i c _
      unfold Works.grantTo
      dsimp only
      split <;> split <;> first | rw [hE] | rw [hR] | rw [hF]
    · rfl

end Sys2Proof.Machine
end

