-- ==== Sys2Proof/Laws/Memory.lean ====
section
/-! SUPPORT. Slot contents: every operation keeps the canonical form, and what a read returns. -/

namespace Sys2Proof.Machine

/-- Slots put among those listed come from the list or are the one put. -/
theorem mem_putSlot {slot : Nat} {words : List StoredWord} {fs : List (Nat × List StoredWord)}
    {p : Nat × List StoredWord} (h : p ∈ putSlot slot words fs) : p = (slot, words) ∨ p ∈ fs := by
  induction fs with
  | nil => simpa [putSlot] using h
  | cons q rest ih =>
    unfold putSlot at h
    split at h
    · simpa using h
    · split at h
      · rcases List.mem_cons.1 h with h | h
        · exact Or.inl h
        · exact Or.inr (List.mem_cons_of_mem _ h)
      · rcases List.mem_cons.1 h with h | h
        · exact Or.inr (h ▸ List.mem_cons_self)
        · rcases ih h with h | h
          · exact Or.inl h
          · exact Or.inr (List.mem_cons_of_mem _ h)

/-- Slots stay strictly rising. -/
theorem putSlot_pairwise (slot : Nat) (words : List StoredWord) (fs : List (Nat × List StoredWord))
    (h : fs.Pairwise fun p q => p.1 < q.1) : (putSlot slot words fs).Pairwise fun p q => p.1 < q.1 := by
  induction fs with
  | nil => simp [putSlot]
  | cons q rest ih =>
    obtain ⟨h1, h2⟩ := List.pairwise_cons.1 h
    unfold putSlot
    split
    · rename_i hlt
      refine List.pairwise_cons.2 ⟨fun p hp => ?_, h⟩
      rcases List.mem_cons.1 hp with hp | hp
      · exact hp ▸ hlt
      · exact Nat.lt_trans hlt (h1 p hp)
    · split
      · rename_i heq
        exact List.pairwise_cons.2 ⟨fun p hp => heq ▸ h1 p hp, h2⟩
      · rename_i hn he
        refine List.pairwise_cons.2 ⟨fun p hp => ?_, ih h2⟩
        rcases mem_putSlot hp with hp | hp
        · subst hp; exact Nat.lt_of_le_of_ne (Nat.le_of_not_lt hn) (Ne.symm he)
        · exact h1 p hp

/-- Words formed from bytes. -/
theorem wordsOfBytes_length (bytes : List Byte) : (wordsOfBytes bytes).length = (bytes.length + 1) / 2 := by
  induction bytes using wordsOfBytes.induct with
  | case1 lo hi rest ih => simp [wordsOfBytes, ih]; omega
  | case2 lo => simp [wordsOfBytes]
  | case3 => simp [wordsOfBytes]

/-- A slot's image has 42 words (R113). -/
theorem slotImage_length (bytes : List Byte) : (slotImage bytes).length = Config.slotWords := by
  simp [slotImage, wordsOfBytes_length, Config.slotWords]

/-- The pattern run gives as many words as asked for. -/
theorem patternRun_length (n held : Nat) : (patternRun n held).length = n := by
  induction n generalizing held with
  | zero => rfl
  | succ n ih => simp [patternRun, ih]

/-- A slot's pattern has 42 words (R124). -/
theorem patternWords_length (skipped : List Nat) (slot : Nat) :
    (patternWords skipped slot).length = Config.slotWords := patternRun_length _ _

/-- The words of power-on are 42. -/
theorem blankWords_length : blankWords.length = Config.slotWords := by simp [blankWords]

/-- What a slot holds unlisted is 42 words. -/
theorem Store.background_length {st : Store} {slot : Nat} {words : List StoredWord}
    (h : st.background slot = some words) : words.length = Config.slotWords := by
  unfold Store.background at h
  split at h
  · split at h
    · split at h <;> cases h
      · exact blankWords_length
      · exact patternWords_length _ _
    · cases h
      exact blankWords_length
  · cases h

/-- Every slot of the 8192 holds words (R113). -/
theorem Store.words_isSome (st : Store) {slot : Nat} (h : slot < Config.slotCount) : (st.words slot).isSome = true := by
  unfold Store.words
  split
  · rfl
  · unfold Store.background
    rw [if_pos h]
    split
    · split <;> rfl
    · rfl

/-- The canonical form in its parts. -/
theorem Store.wf_iff (st : Store) :
    st.wf = true ↔ (st.listed.Pairwise fun p q => p.1 < q.1) ∧
      ∀ p ∈ st.listed, p.2.length = Config.slotWords ∧ st.background p.1 ≠ some p.2 := by
  simp [Store.wf]

/-- A write changes the listed slots and not what unlisted ones hold. -/
theorem Store.put_background (st : Store) (slot n : Nat) (words : List StoredWord) :
    (st.put slot words).background n = st.background n := by
  unfold Store.put
  split <;> rfl

/-- Putting 42 words into a slot keeps the canonical form. -/
theorem Store.wf_put {st : Store} (h : st.wf = true) (slot : Nat) {words : List StoredWord}
    (hw : words.length = Config.slotWords) : (st.put slot words).wf = true := by
  rw [Store.wf_iff] at h ⊢
  simp only [Store.put_background]
  unfold Store.put
  split
  · exact ⟨h.1.filter _, fun p hp => h.2 p (List.mem_filter.1 hp).1⟩
  · rename_i hb
    refine ⟨putSlot_pairwise _ _ _ h.1, fun p hp => ?_⟩
    rcases mem_putSlot hp with hp | hp
    · rw [hp]; exact ⟨hw, hb⟩
    · exact h.2 p hp

/-- A write keeps the canonical form. -/
theorem Store.wf_write {st : Store} (h : st.wf = true) (slot : Nat) (bytes : List Byte) :
    (st.write slot bytes).wf = true := Store.wf_put h slot (slotImage_length bytes)

/-- Several writes keep it. -/
theorem Store.wf_writeAll {st : Store} (h : st.wf = true) (writes : List (Nat × List Byte)) :
    (st.writeAll writes).wf = true := by
  induction writes generalizing st with
  | nil => exact h
  | cons w rest ih => exact ih (Store.wf_write h w.1 w.2)

/-- The words found for a slot are listed for it. -/
theorem findSlot_mem {slot : Nat} {words : List StoredWord} {cells : List (Nat × List StoredWord)}
    (h : findSlot slot cells = some words) : (slot, words) ∈ cells := by
  unfold findSlot at h
  rw [Option.map_eq_some_iff] at h
  obtain ⟨p, hp, rfl⟩ := h
  have h1 := List.find?_some hp
  have h2 := List.mem_of_find?_eq_some hp
  simp only [decide_eq_true_eq] at h1
  subst h1
  exact h2

/-- In a canonical store every slot that holds words holds 42. -/
theorem Store.words_length {st : Store} (h : st.wf = true) {slot : Nat} {words : List StoredWord}
    (hw : st.words slot = some words) : words.length = Config.slotWords := by
  unfold Store.words at hw
  split at hw
  · rename_i w hf
    cases hw
    exact (((Store.wf_iff st).1 h).2 _ (findSlot_mem hf)).1
  · exact Store.background_length hw

/-- What WRITING keeps of a slot left out. -/
theorem Store.keptWords_eq_some {st : Store} {slot : Nat} {words : List StoredWord} :
    st.keptWords slot = some words ↔ st.words slot = some words ∧ words ≠ blankWords := by
  simp [Store.keptWords, Option.filter_eq_some_iff]

/-- What WRITING lists: the slots left out, as they were. -/
theorem Store.mem_writePattern {st : Store} {skipped : List Nat} {p : Nat × List StoredWord} :
    p ∈ (st.writePattern skipped).listed ↔
      (p.1 < Config.slotCount ∧ skipped.contains p.1 = true) ∧ st.keptWords p.1 = some p.2 := by
  simp only [Store.writePattern, List.mem_filterMap, List.mem_filter, slotNumbers, List.mem_range,
    Option.map_eq_some_iff]
  constructor
  · rintro ⟨n, hn, w, hw, rfl⟩; exact ⟨hn, hw⟩
  · rintro ⟨hn, hw⟩; exact ⟨p.1, hn, p.2, hw, rfl⟩

/-- The slot numbers rise. -/
theorem slotNumbers_pairwise : slotNumbers.Pairwise (· < ·) := by
  rw [slotNumbers]
  exact List.pairwise_lt_range

/-- WRITING leaves the canonical form. -/
theorem Store.wf_writePattern {st : Store} (h : st.wf = true) (skipped : List Nat) :
    (st.writePattern skipped).wf = true := by
  rw [Store.wf_iff]
  constructor
  · simp only [Store.writePattern]
    rw [List.pairwise_filterMap]
    refine (slotNumbers_pairwise.filter skipped.contains).imp ?_
    intro a b hab p hp q hq
    simp only [Option.map_eq_some_iff] at hp hq
    obtain ⟨_, _, rfl⟩ := hp
    obtain ⟨_, _, rfl⟩ := hq
    exact hab
  · intro p hp
    obtain ⟨⟨hn, hs⟩, hw⟩ := Store.mem_writePattern.1 hp
    obtain ⟨hw, hb⟩ := Store.keptWords_eq_some.1 hw
    refine ⟨Store.words_length h hw, ?_⟩
    simp only [Store.background, Store.writePattern, hn, hs, if_true]
    exact fun hc => hb (Option.some.inj hc).symm

/-- What an ENCODE completion keeps of its record keeps it. -/
theorem Store.wf_keep {st : Store} (h : st.wf = true) (slot : Option Nat) (r : FrameRecord) :
    (st.keep slot r).wf = true := by
  cases slot with
  | none => exact h
  | some n => exact Store.wf_write h n r.toBytes

/-- Unwritten slots have it. -/
theorem Store.wf_blank : Store.blank.wf = true := rfl

/-- State.reset has it. -/
theorem State.reset_wf : State.reset.store.wf = true := rfl

/-- No error named, no bit wrong. -/
theorem errorMask_nil (slot i : Nat) : errorMask [] slot i = 0#17 := rfl

/-- A read without errors returns the words written, from any word on. -/
theorem readBackFrom_nil (slot i : Nat) (words : List StoredWord) : readBackFrom [] slot i words = words := by
  induction words generalizing i with
  | nil => rfl
  | cons w rest ih => simp [readBackFrom, errorMask_nil, ih]

/-- A read without errors returns the words written (R114). -/
theorem readBack_nil (slot : Nat) (words : List StoredWord) : readBack [] slot words = words :=
  readBackFrom_nil slot 0 words

/-- A read keeps the number of words. -/
theorem readBackFrom_length (errs : List CellError) (slot i : Nat) (words : List StoredWord) :
    (readBackFrom errs slot i words).length = words.length := by
  induction words generalizing i with
  | nil => rfl
  | cons w rest ih => simp [readBackFrom, ih]

/-- From word `i` on, a read returns the words written exactly when none of them has a wrong bit. -/
theorem readBackFrom_eq_iff (errs : List CellError) (slot i : Nat) (words : List StoredWord) :
    readBackFrom errs slot i words = words ↔ ∀ j, j < words.length → errorMask errs slot (i + j) = 0#17 := by
  induction words generalizing i with
  | nil => simp [readBackFrom]
  | cons w rest ih =>
    have hx : (w ^^^ errorMask errs slot i = w) ↔ errorMask errs slot i = 0#17 := by
      constructor
      · intro h
        have h2 := congrArg (w ^^^ ·) h
        simpa [← BitVec.xor_assoc] using h2
      · intro h; simp [h]
    simp only [readBackFrom, List.cons.injEq, hx, ih]
    constructor
    · rintro ⟨h0, hr⟩ j hj
      cases j with
      | zero => exact h0
      | succ j =>
        have := hr j (by simpa using hj)
        rwa [show i + (j + 1) = i + 1 + j by omega]
    · intro h
      refine ⟨h 0 (by simp), fun j hj => ?_⟩
      have := h (j + 1) (by simpa using hj)
      rwa [show i + (j + 1) = i + 1 + j by omega] at this

/-- A read returns the words written exactly when none of them has a wrong bit (R126). -/
theorem readBack_eq_iff (errs : List CellError) (slot : Nat) (words : List StoredWord) :
    readBack errs slot words = words ↔ ∀ j, j < words.length → errorMask errs slot j = 0#17 := by
  simpa [readBack] using readBackFrom_eq_iff errs slot 0 words

/-- An error of another slot leaves a slot's words. -/
theorem errorMask_unnamed {errs : List CellError} {slot : Nat} (h : ∀ e ∈ errs, e.slot ≠ slot) (i : Nat) :
    errorMask errs slot i = 0#17 := by
  unfold errorMask
  induction errs with
  | nil => rfl
  | cons e rest ih =>
    have he : e.slot ≠ slot := h e List.mem_cons_self
    simp only [List.foldl_cons, he, false_and, if_false]
    exact ih fun f hf => h f (List.mem_cons_of_mem _ hf)

/-! ### What a slot holds -/

/-- Words put among those listed are found. -/
theorem findSlot_putSlot (slot n : Nat) (words : List StoredWord) (cells : List (Nat × List StoredWord)) :
    findSlot n (putSlot slot words cells) = if n = slot then some words else findSlot n cells := by
  unfold findSlot
  induction cells with
  | nil => by_cases h : n = slot <;> simp [putSlot, h, Ne.symm]
  | cons p rest ih =>
    unfold putSlot
    by_cases h : n = slot
    · subst h
      simp only [if_true] at ih ⊢
      split
      · simp
      · split
        · simp
        · rename_i h1 h2
          have h3 : p.1 ≠ n := fun h => h2 h.symm
          simpa [List.find?_cons, h3] using ih
    · have hs : slot ≠ n := fun h1 => h h1.symm
      simp only [h, if_false] at ih ⊢
      split
      · simp [List.find?_cons, hs]
      · split
        · rename_i h1 h2
          have h3 : p.1 ≠ n := h2 ▸ hs
          simp [hs, h3]
        · by_cases h3 : p.1 = n
          · simp [h3]
          · simpa [List.find?_cons, h3] using ih

/-- Taking a slot from those listed. -/
theorem findSlot_filter (slot n : Nat) (cells : List (Nat × List StoredWord)) :
    findSlot n (cells.filter fun p => decide (p.1 ≠ slot)) = if n = slot then none else findSlot n cells := by
  unfold findSlot
  induction cells with
  | nil => simp
  | cons p rest ih =>
    by_cases h : p.1 = slot
    · by_cases hn : n = slot
      · subst hn; simp [h]
      · have h3 : p.1 ≠ n := fun h1 => hn (h1.symm.trans h)
        simp only [hn, if_false] at ih ⊢
        simpa [List.find?_cons, h, h3, Ne.symm hn] using ih
    · by_cases h3 : p.1 = n
      · have hn : n ≠ slot := fun h1 => h (h3.trans h1)
        simp [h3, hn]
      · simpa [List.find?_cons, h, h3] using ih

/-- A slot holds what was put into it, and every other slot what it held (R113). -/
theorem Store.words_put (st : Store) (slot n : Nat) (words : List StoredWord) :
    (st.put slot words).words n = if n = slot then some words else st.words n := by
  unfold Store.words
  rw [Store.put_background]
  by_cases hb : st.background slot = some words
  · have hl : (st.put slot words).listed = st.listed.filter fun p => decide (p.1 ≠ slot) := by
      rw [Store.put, if_pos hb]
    rw [hl, findSlot_filter]
    by_cases h : n = slot
    · subst h; simp [hb]
    · simp [h]
  · have hl : (st.put slot words).listed = putSlot slot words st.listed := by rw [Store.put, if_neg hb]
    rw [hl, findSlot_putSlot]
    by_cases h : n = slot <;> simp [h]

/-- After WRITING a slot that was not left out holds its pattern words (R125). -/
theorem Store.words_writePattern {st : Store} {skipped : List Nat} {n : Nat} (hn : n < Config.slotCount)
    (hs : n ∉ skipped) : (st.writePattern skipped).words n = some (patternWords skipped n) := by
  have hf : findSlot n (st.writePattern skipped).listed = none := by
    cases h : findSlot n (st.writePattern skipped).listed with
    | none => rfl
    | some w =>
      have := (Store.mem_writePattern.1 (findSlot_mem h)).1.2
      simp at this
      exact absurd this hs
  unfold Store.words
  rw [hf]
  simp [Store.background, Store.writePattern, hn, hs]

/-- Finding a slot among those that a function gives words to. -/
theorem findSlot_filterMap (g : Nat → Option (List StoredWord)) (n : Nat) (xs : List Nat) :
    findSlot n (xs.filterMap fun m => (g m).map (m, ·)) = if n ∈ xs then g n else none := by
  induction xs with
  | nil => rfl
  | cons m rest ih =>
    by_cases h : n = m
    · subst h
      cases hg : g n with
      | none => simp [hg, ih]
      | some w => simp [hg, findSlot]
    · cases hg : g m with
      | none => simp [hg, ih, h]
      | some w =>
        have h' : m ≠ n := fun h1 => h h1.symm
        simp only [List.filterMap_cons, hg, Option.map_some, List.mem_cons, h, false_or]
        rw [← ih]
        simp [findSlot, h']

/-- After WRITING a slot that was left out holds what it held (R125). -/
theorem Store.words_writePattern_skipped {st : Store} {skipped : List Nat} {n : Nat} (hn : n < Config.slotCount)
    (hs : n ∈ skipped) : (st.writePattern skipped).words n = st.words n := by
  have hm : n ∈ slotNumbers.filter skipped.contains := by
    rw [List.mem_filter]
    exact ⟨by rw [slotNumbers]; exact List.mem_range.2 hn, by simpa using hs⟩
  have hf : findSlot n (st.writePattern skipped).listed = st.keptWords n := by
    simp only [Store.writePattern]
    rw [findSlot_filterMap, if_pos hm]
  have hb : (st.writePattern skipped).background n = some blankWords := by
    simp [Store.background, Store.writePattern, hn, hs]
  obtain ⟨w, hw⟩ := Option.isSome_iff_exists.1 (st.words_isSome hn)
  rw [Store.words, hf, hb, hw]
  by_cases hc : w = blankWords
  · rw [show st.keptWords n = none by simp [Store.keptWords, hw, hc], hc]
  · rw [Store.keptWords_eq_some.2 ⟨hw, hc⟩]

/-- A slot mismatches exactly when what it reads is not its pattern words (R126). -/
theorem Store.mismatches_eq (st : Store) (errs : List CellError) (skipped : List Nat) {slot : Nat}
    (h : slot < Config.slotCount) :
    st.mismatches errs skipped slot =
      decide ((st.words slot).map (readBack errs slot) ≠ some (patternWords skipped slot)) := by
  unfold Store.mismatches
  by_cases hp : st.plainlyMatches errs skipped slot = true
  · simp only [hp, Bool.not_true, Bool.false_and]
    symm
    rw [decide_eq_false_iff_not, not_not]
    simp only [Store.plainlyMatches, Bool.and_eq_true, decide_eq_true_eq, Bool.not_eq_true', Option.isNone_iff_eq_none,
      List.any_eq_false] at hp
    obtain ⟨⟨⟨h1, h2⟩, h3⟩, h4⟩ := hp
    have hw : st.words slot = some (patternWords skipped slot) := by
      unfold Store.words
      rw [h3]
      simp only [Store.background, h1, h, h2, if_true, Bool.false_eq_true, if_false]
    rw [hw, Option.map_some, (readBack_eq_iff errs slot _).2]
    exact fun j _ => errorMask_unnamed h4 j
  · simp [hp]

end Sys2Proof.Machine
end

