-- ==== Sys2Proof/Laws/Motion.lean ====
section
/-! SUPPORT. What a wind does: the position reached, its reply, and the sealing that follows a cursor that moves. -/

namespace Sys2Proof.Machine

/-- A position limited to a range that is not empty. -/
theorem clampInt_eq {low high : Nat} (v : Int) (h : low ≤ high) :
    clampInt low high v =
      ((max (low : Int) (min (high : Int) v)).toNat, !decide ((low : Int) ≤ v ∧ v ≤ (high : Int))) := by
  unfold clampInt
  split
  · have hn : ¬((low : Int) ≤ v ∧ v ≤ (high : Int)) := by omega
    simp only [hn, decide_false, Bool.not_false, Prod.mk.injEq, and_true]
    omega
  · split
    · have hn : ¬((low : Int) ≤ v ∧ v ≤ (high : Int)) := by omega
      simp only [hn, decide_false, Bool.not_false, Prod.mk.injEq, and_true]
      omega
    · have hy : decide ((low : Int) ≤ v ∧ v ≤ (high : Int)) = true := by simp; omega
      simp only [hy, Bool.not_true, Prod.mk.injEq, and_true]
      omega

/-- The wind of a letter (R48, R85). -/
theorem Works.windFrom_eq {k : Works} {i : Nat} (marks : List Mark) (t : WindTarget)
    (h : (k.letter i).sealB ≤ (k.letter i).length) :
    let l := k.letter i
    let v := l.windAim marks t
    let p := (max (l.sealB : Int) (min (l.length : Int) v)).toNat
    k.windFrom i marks t =
      (⟨if (l.sealB : Int) ≤ v ∧ v ≤ (l.length : Int) then .ok else .clamped, byte3 p⟩,
        if p = l.cursor then k
        else ({ k with letters := k.letters.set i { l with cursor := p } } : Works).applySealing i) := by
  intro l v p
  have hst : okOrClamped (!decide ((l.sealB : Int) ≤ v ∧ v ≤ (l.length : Int))) =
      if (l.sealB : Int) ≤ v ∧ v ≤ (l.length : Int) then .ok else .clamped := by
    by_cases hv : (l.sealB : Int) ≤ v ∧ v ≤ (l.length : Int) <;> simp [hv, okOrClamped]
  simp only [Works.windFrom, clampInt_eq _ h, Works.moveCursor]
  rw [hst]
  by_cases hp : p = l.cursor
  · rw [if_pos (show (k.letter i).cursor = p from hp.symm), if_pos hp]
  · rw [if_neg (show ¬(k.letter i).cursor = p from fun hc => hp hc.symm), if_neg hp]
    rfl

end Sys2Proof.Machine
end

