-- ==== Sys2Proof/Laws/Pattern.lean ====
section
/-! SUPPORT. The shift sequence of the scan: what a step does to the held bits, that it repeats after 32,767 bits, and the
words of a slot as a run of it. -/

namespace Sys2Proof.Machine

/-- Fifteen zeros stay zeros. -/
theorem patternAfter_zeros (n : Nat) : patternAfter n 0 = 0 := by cases n <;> rfl

/-- One step more, taken first. -/
theorem patternAfter_succ (n held : Nat) : patternAfter (n + 1) held = patternAfter n (patternStep held) := by
  cases held with
  | zero => rw [patternAfter_zeros]; exact (patternAfter_zeros n).symm
  | succ held => rfl

/-- Steps add up. -/
theorem patternAfter_add (m n held : Nat) : patternAfter (m + n) held = patternAfter n (patternAfter m held) := by
  induction m generalizing held with
  | zero => simp [patternAfter]
  | succ m ih => rw [show m + 1 + n = (m + n) + 1 by omega, patternAfter_succ, patternAfter_succ, ih]

set_option Elab.async false in
/-- The sequence repeats after 32,767 bits (R124). -/
theorem patternAfter_period : patternAfter Config.patternPeriod patternSeed = patternSeed := by decide +kernel

/-- Whole periods may be left out. -/
theorem patternAfter_mod (n : Nat) : patternAfter (n % Config.patternPeriod) patternSeed = patternAfter n patternSeed := by
  have h : ∀ q r, patternAfter (Config.patternPeriod * q + r) patternSeed = patternAfter r patternSeed := by
    intro q
    induction q with
    | zero => intro r; simp
    | succ q ih =>
      intro r
      rw [show Config.patternPeriod * (q + 1) + r = Config.patternPeriod + (Config.patternPeriod * q + r) by ring,
        patternAfter_add, patternAfter_period, ih]
  conv_rhs => rw [← Nat.div_add_mod n Config.patternPeriod]
  rw [h]

/-- A step as a shift that takes the new bit in. -/
theorem patternStep_eq (held : Nat) :
    patternStep held = 2 * (held % 2 ^ 14) + (held.testBit 14 ^^ held.testBit 13).toNat := by
  unfold patternStep
  have : 2 * held % 32768 = 2 * (held % 2 ^ 14) := by omega
  rw [this]

/-- The new bit is the exclusive-or of the two oldest (R124). -/
theorem patternStep_newest (held : Nat) : (patternStep held).testBit 0 = (held.testBit 14 ^^ held.testBit 13) := by
  rw [patternStep_eq, Nat.testBit_zero]
  cases held.testBit 14 ^^ held.testBit 13 <;> simp

/-- Every other bit moves on by one place. -/
theorem patternStep_older (held : Nat) {c : Nat} (hc : c < 14) : (patternStep held).testBit (c + 1) = held.testBit c := by
  rw [patternStep_eq, Nat.testBit_succ]
  have : (2 * (held % 2 ^ 14) + (held.testBit 14 ^^ held.testBit 13).toNat) / 2 = held % 2 ^ 14 := by
    cases held.testBit 14 ^^ held.testBit 13 <;> simp only [Bool.toNat_true, Bool.toNat_false] <;> omega
  rw [this, Nat.testBit_mod_two_pow]
  simp [hc]

/-- A held bit stays in its place of the sequence. -/
theorem patternAfter_older (held : Nat) {n c : Nat} (hc : c + n ≤ 14) :
    (patternAfter n held).testBit (c + n) = held.testBit c := by
  induction n generalizing held c with
  | zero => rfl
  | succ n ih =>
    rw [patternAfter_succ, show c + (n + 1) = (c + 1) + n by omega, ih (patternStep held) (by omega),
      patternStep_older held (by omega)]

/-- Bit `n` of the sequence, the first fifteen being those of the seed. -/
def patternBit (n : Nat) : Bool := (patternAfter n patternSeed).testBit 14

/-- Each bit is the exclusive-or of those fifteen and fourteen before it (R124). -/
theorem patternBit_recurs (n : Nat) : patternBit (n + 15) = (patternBit n ^^ patternBit (n + 1)) := by
  have h1 : patternBit (n + 15) = (patternStep (patternAfter n patternSeed)).testBit 0 := by
    have h : patternAfter (n + 15) patternSeed = patternAfter 14 (patternStep (patternAfter n patternSeed)) := by
      rw [patternAfter_add, patternAfter_succ]
    rw [patternBit, h]
    exact patternAfter_older (patternStep (patternAfter n patternSeed)) (n := 14) (c := 0) (Nat.le_refl _)
  have h2 : patternBit (n + 1) = (patternAfter n patternSeed).testBit 13 := by
    rw [patternBit, patternAfter_add, patternAfter_succ]
    exact patternStep_older (patternAfter n patternSeed) (c := 13) (by omega)
  rw [h1, h2, patternStep_newest]
  rfl

/-- The sequence starts with fourteen zeros and a one (R124). -/
theorem patternBit_start : (∀ n, n < 14 → patternBit n = false) ∧ patternBit 14 = true := by decide +kernel

/-- The words of a run, each sixteen steps on from the one before it. -/
theorem patternRun_get {n i : Nat} (held : Nat) (hi : i < n) :
    (patternRun n held)[i]? = some (withParity (patternWord (patternAfter (16 * i) held))) := by
  induction n generalizing held i with
  | zero => omega
  | succ n ih =>
    cases i with
    | zero => simp [patternRun, patternAfter]
    | succ i =>
      simp only [patternRun, List.getElem?_cons_succ]
      rw [ih _ (by omega), ← patternAfter_add]
      congr 4
      omega

/-- How many slots are written before a slot, counted over those before it (R125). -/
theorem patternOrdinal_eq {skipped : List Nat} (slot : Nat) (h : skipped.Nodup) :
    patternOrdinal skipped slot = ((List.range slot).filter fun n => !skipped.contains n).length := by
  unfold patternOrdinal
  have h1 : ((List.range slot).filter fun n => skipped.contains n).length =
      (skipped.filter fun f => decide (f < slot)).length := by
    apply List.Perm.length_eq
    rw [List.perm_ext_iff_of_nodup (List.nodup_range.filter _) (h.filter _)]
    intro a
    simp [and_comm]
  have h2 := List.length_eq_length_filter_add (l := List.range slot) (fun n => skipped.contains n)
  simp only [List.length_range] at h2
  omega

/-- Word `i` of a slot's pattern words. -/
theorem patternWords_get (skipped : List Nat) (slot : Nat) {i : Nat} (hi : i < Config.slotWords) :
    (patternWords skipped slot)[i]? =
      some (withParity (patternWord (patternAfter (672 * patternOrdinal skipped slot + 16 * i) patternSeed))) := by
  rw [patternWords, patternRun_get _ hi, patternAfter_mod, ← patternAfter_add]
  rfl

end Sys2Proof.Machine
end

