-- ==== Sys2Proof/WellFormed.lean ====
section
/-! DEFINITION. The form of a command: its operands lie in the ranges that the spec gives them. -/

namespace Sys2Proof

/-- A read error names a word of a slot (R113). -/
def CellError.wf (e : CellError) : Bool :=
  decide (e.slot < Config.slotCount) && decide (e.word < Config.slotWords)

/-- Every error of a read names a word of a slot. -/
def cellErrorsWf (errs : List CellError) : Bool := errs.all CellError.wf

/-- A line frame carries the 32 receive timeslots (R163). -/
def receiveWf (rx : List (Option Sample)) : Bool := decide (rx.length = Config.timeslotCount)

/-- A message has 3 to 1027 bytes after its length (R178), and at least one of them completes it. -/
def charsWf (chars : List Byte) : Bool := decide (1 ≤ chars.length) && decide (chars.length ≤ 1027)

/-- Well-formed commands. -/
def Instr.wellFormed : Instr → Bool
  | .powerOn _ => true
  | .resetAsserted => true
  | .resetLine _ => true
  | .loadingEnd => true
  | .writingEnd => true
  | .checkingEnd got => decide (got.upTo ≤ Config.slotCount) && cellErrorsWf got.errs
  | .framingError => true
  | .lineBreak => true
  | .messageReceived chars => charsWf chars
  | .reqUnknownKind => true
  | .reqIdentify => true
  | .reqStatus => true
  | .reqConfigure => true
  | .reqPoll => true
  | .reqDefects => true
  | .reqRestart => true
  | .restartFull => true
  | .restartKeep => true
  | .reqSet => true
  | .reqBind => true
  | .reqOpen => true
  | .reqAttach => true
  | .reqDetach => true
  | .reqEnd => true
  | .reqDiscard => true
  | .reqTruncate => true
  | .reqRecord => true
  | .reqStop => true
  | .reqWind => true
  | .reqReview => true
  | .reqMark => true
  | .reqUnmark => true
  | .reqMarklist => true
  | .reqTake errs => cellErrorsWf errs
  | .reqLoad => true
  | .reqUnload => true
  | .reqFeed => true
  | .reqPlay => true
  | .reqHalt => true
  | .reqStep => true
  | .sync rx => receiveWf rx
  | .frameBoundary rx => receiveWf rx
  | .encodeCompletion => true
  | .decodeCompletion errs => cellErrorsWf errs
  | .referenceTick => true
  | .syncAbsence => true
  | .windowEnd => true
  | .leadByteReceived _ => true
  | .messageLengthReceived _ _ => true
  | .lineBreakEnd => true

end Sys2Proof
end

