-- ==== Sys2Proof/Laws/PerInstr.lean ====
section
/-! SUPPORT. The form of every command, one lemma for each constructor. -/

namespace Sys2Proof.Laws.Form

/-- The read errors that a command carries. -/
def errorsOf : Instr → List CellError
  | .checkingEnd got => got.errs
  | .reqTake errs => errs
  | .decodeCompletion errs => errs
  | _ => []

/-- The receive timeslots that a command carries. -/
def receiveOf : Instr → Option (List (Option Sample))
  | .sync rx => some rx
  | .frameBoundary rx => some rx
  | _ => none

/-- The characters that a message's completion carries. -/
def charsOf : Instr → Option (List Byte)
  | .messageReceived chars => some chars
  | _ => none

/-- The slot that CHECKING has come to, where a command says so. -/
def upToOf : Instr → Option Nat
  | .checkingEnd got => some got.upTo
  | _ => none

/-- A command is well-formed exactly when each read error names one of the 42 words of one of the 8192 slots (R113), the
timeslots received are 32 (R163), the characters that complete a message are 1 to 1027 (R178), and CHECKING has come to a
slot or past the last (R126). -/
def Statement (i : Instr) : Prop :=
  i.wellFormed = true ↔
    (∀ e ∈ errorsOf i, e.slot < Config.slotCount ∧ e.word < Config.slotWords) ∧
      (∀ rx ∈ receiveOf i, rx.length = Config.timeslotCount) ∧
      (∀ chars ∈ charsOf i, 1 ≤ chars.length ∧ chars.length ≤ 1027) ∧
      ∀ upTo ∈ upToOf i, upTo ≤ Config.slotCount

/-- A command without these operands is well-formed. -/
theorem plain {i : Instr} (h : i.wellFormed = true) (h1 : errorsOf i = []) (h2 : receiveOf i = none)
    (h3 : charsOf i = none) (h4 : upToOf i = none) : Statement i := by
  simp [Statement, h, h1, h2, h3, h4]

/-- Read errors are well-formed one by one. -/
theorem cellErrorsWf_iff (errs : List CellError) :
    cellErrorsWf errs = true ↔ ∀ e ∈ errs, e.slot < Config.slotCount ∧ e.word < Config.slotWords := by
  simp [cellErrorsWf, CellError.wf]

theorem powerOn (straps : Straps) : Statement (.powerOn straps) := plain rfl rfl rfl rfl rfl
theorem resetAsserted : Statement .resetAsserted := plain rfl rfl rfl rfl rfl
theorem resetLine (straps : Straps) : Statement (.resetLine straps) := plain rfl rfl rfl rfl rfl
theorem loadingEnd : Statement .loadingEnd := plain rfl rfl rfl rfl rfl
theorem writingEnd : Statement .writingEnd := plain rfl rfl rfl rfl rfl
theorem checkingEnd (got : ReadBack) : Statement (.checkingEnd got) := by
  simp [Statement, Instr.wellFormed, errorsOf, receiveOf, charsOf, upToOf, cellErrorsWf_iff, and_comm]
theorem framingError : Statement .framingError := plain rfl rfl rfl rfl rfl
theorem lineBreak : Statement .lineBreak := plain rfl rfl rfl rfl rfl
theorem messageReceived (chars : List Byte) : Statement (.messageReceived chars) := by
  simp [Statement, Instr.wellFormed, errorsOf, receiveOf, charsOf, upToOf, charsWf]
theorem reqUnknownKind : Statement .reqUnknownKind := plain rfl rfl rfl rfl rfl
theorem reqIdentify : Statement .reqIdentify := plain rfl rfl rfl rfl rfl
theorem reqStatus : Statement .reqStatus := plain rfl rfl rfl rfl rfl
theorem reqConfigure : Statement .reqConfigure := plain rfl rfl rfl rfl rfl
theorem reqPoll : Statement .reqPoll := plain rfl rfl rfl rfl rfl
theorem reqDefects : Statement .reqDefects := plain rfl rfl rfl rfl rfl
theorem reqRestart : Statement .reqRestart := plain rfl rfl rfl rfl rfl
theorem restartFull : Statement .restartFull := plain rfl rfl rfl rfl rfl
theorem restartKeep : Statement .restartKeep := plain rfl rfl rfl rfl rfl
theorem reqSet : Statement .reqSet := plain rfl rfl rfl rfl rfl
theorem reqBind : Statement .reqBind := plain rfl rfl rfl rfl rfl
theorem reqOpen : Statement .reqOpen := plain rfl rfl rfl rfl rfl
theorem reqAttach : Statement .reqAttach := plain rfl rfl rfl rfl rfl
theorem reqDetach : Statement .reqDetach := plain rfl rfl rfl rfl rfl
theorem reqEnd : Statement .reqEnd := plain rfl rfl rfl rfl rfl
theorem reqDiscard : Statement .reqDiscard := plain rfl rfl rfl rfl rfl
theorem reqTruncate : Statement .reqTruncate := plain rfl rfl rfl rfl rfl
theorem reqRecord : Statement .reqRecord := plain rfl rfl rfl rfl rfl
theorem reqStop : Statement .reqStop := plain rfl rfl rfl rfl rfl
theorem reqWind : Statement .reqWind := plain rfl rfl rfl rfl rfl
theorem reqReview : Statement .reqReview := plain rfl rfl rfl rfl rfl
theorem reqMark : Statement .reqMark := plain rfl rfl rfl rfl rfl
theorem reqUnmark : Statement .reqUnmark := plain rfl rfl rfl rfl rfl
theorem reqMarklist : Statement .reqMarklist := plain rfl rfl rfl rfl rfl
theorem reqTake (errs : List CellError) : Statement (.reqTake errs) := by
  simp [Statement, Instr.wellFormed, errorsOf, receiveOf, charsOf, upToOf, cellErrorsWf_iff]
theorem reqLoad : Statement .reqLoad := plain rfl rfl rfl rfl rfl
theorem reqUnload : Statement .reqUnload := plain rfl rfl rfl rfl rfl
theorem reqFeed : Statement .reqFeed := plain rfl rfl rfl rfl rfl
theorem reqPlay : Statement .reqPlay := plain rfl rfl rfl rfl rfl
theorem reqHalt : Statement .reqHalt := plain rfl rfl rfl rfl rfl
theorem reqStep : Statement .reqStep := plain rfl rfl rfl rfl rfl
theorem sync (rx : List (Option Sample)) : Statement (.sync rx) := by
  simp [Statement, Instr.wellFormed, errorsOf, receiveOf, charsOf, upToOf, receiveWf]
theorem frameBoundary (rx : List (Option Sample)) : Statement (.frameBoundary rx) := by
  simp [Statement, Instr.wellFormed, errorsOf, receiveOf, charsOf, upToOf, receiveWf]
theorem encodeCompletion : Statement .encodeCompletion := plain rfl rfl rfl rfl rfl
theorem decodeCompletion (errs : List CellError) : Statement (.decodeCompletion errs) := by
  simp [Statement, Instr.wellFormed, errorsOf, receiveOf, charsOf, upToOf, cellErrorsWf_iff]
theorem referenceTick : Statement .referenceTick := plain rfl rfl rfl rfl rfl
theorem syncAbsence : Statement .syncAbsence := plain rfl rfl rfl rfl rfl
theorem windowEnd : Statement .windowEnd := plain rfl rfl rfl rfl rfl
theorem leadByteReceived (char : Byte) : Statement (.leadByteReceived char) := plain rfl rfl rfl rfl rfl
theorem messageLengthReceived (low high : Byte) : Statement (.messageLengthReceived low high) := plain rfl rfl rfl rfl rfl
theorem lineBreakEnd : Statement .lineBreakEnd := plain rfl rfl rfl rfl rfl

end Sys2Proof.Laws.Form
end

