-- ==== Sys2Proof/Laws/Placement.lean ====
section
/-! SUPPORT. What placing an entry, counting squeezed frames and the implicit STOP at LETTER_FULL do, field by field. -/

namespace Sys2Proof.Machine

/-- Free slots that rise arm the slot mark (R128). -/
theorem Works.slotsFreed_armed (k : Works) :
    k.slotsFreed = { k with slotArmed := k.slotArmed || decide (k.slotMark + 64 ≤ k.freePool.length) } := by
  cases k
  simp only [Works.slotsFreed]
  split <;> simp_all
  exact fun hm => (Bool.eq_false_or_eq_true _).resolve_right fun ha => by simp_all; omega

/-- Free entries that fall compare with the entry mark (R129). -/
theorem Works.entriesTaken_lowered (k : Works) :
    k.entriesTaken =
      { k with
        entryArmed := k.entryArmed && !decide (k.freeEntries < k.entryMark),
        events :=
          if (k.entryArmed && decide (k.freeEntries < k.entryMark)) = true ∧ k.startup = .done then
            putEvent ⟨.entriesLow, 255, 0, 0⟩ k.events
          else k.events } := by
  cases k
  simp only [Works.entriesTaken, Works.raiseDevice, Works.raiseWith]
  split <;> split <;> simp_all [deviceChan]

/-- Free entries that rise arm the entry mark (R129). -/
theorem Works.entriesFreed_armed (k : Works) :
    k.entriesFreed = { k with entryArmed := k.entryArmed || decide (k.entryMark + 64 ≤ k.freeEntries) } := by
  cases k
  simp only [Works.entriesFreed]
  split <;> simp_all
  exact fun hm => (Bool.eq_false_or_eq_true _).resolve_right fun ha => by simp_all; omega

/-- A placement carried out, its pools settled and its channel changed (R40, R128, R129). -/
theorem Works.afterPlan_eq_placedAs {k : Works} {c i : Nat} {mode : RecMode} {p : Plan} {g : Channel → Channel}
    {ch : Channel} (hg : g (k.chan c) = ch) :
    ((k.modLetter i fun l => l.withPlan mode p).afterPlan p).modChan c g = k.placedAs c i mode p ch := by
  subst hg
  cases p with | mk edit need freed longer =>
  cases mode <;> by_cases hn : need = 0 <;> by_cases hf : freed = [] <;>
    simp [Works.afterPlan, Works.placedAs, Works.modLetter, Letter.withPlan, marksAfter, shiftMarks, Works.modChan,
      Works.chan, Works.slotsFreed_armed, Works.entriesTaken_lowered, Works.entriesFreed_armed, hn, hf] <;>
    cases k.entryArmed <;> simp

/-- Frames counted one after the other are counted together (R26). -/
theorem Works.countSqueezed_foldl (i : Nat) (frames : List Frame) (k : Works) (h : i < k.letters.length) :
    frames.foldl (fun acc _ => acc.countSqueezed i) k = k.modLetter i fun l => l.squeezedBy frames.length := by
  induction frames generalizing k with
  | nil =>
    have e : k.letters.set i (k.letter i) = k.letters := set_getD_self k.letters i Letter.freeRecord
    simp only [List.foldl_nil, List.length_nil, Works.modLetter, Letter.squeezedBy, if_true, e]
  | cons f rest ih =>
    rw [List.foldl_cons, ih _ (by simpa [Works.countSqueezed] using h)]
    simp only [Works.countSqueezed, Works.modLetter_modLetter]
    congr 1
    funext l
    by_cases hr : rest = []
    · simp [Letter.squeezedBy, sat16, hr]
    · simp [Letter.squeezedBy, sat16, hr]
      omega

/-- LETTER_FULL and the implicit STOP: held frames are counted as squeezed, and the span ends (R47, R82). -/
theorem Works.letterFull_eq {k : Works} {c i : Nat} (hd : k.startup = .done) (hi : i < k.letters.length) :
    k.letterFull c i =
      { k with
        letters := k.letters.set i ((k.letter i).squeezedBy (k.chan c).det.hold.length),
        chans := k.chans.set c (k.chan c).spanEnded,
        events := putEvent ⟨.letterFull, c, BitVec.ofNat 32 i, 0⟩ k.events } := by
  simp only [Works.letterFull, Works.implicitStop, Works.raise, Works.raiseWith, hd, if_true]
  rw [Works.countSqueezed_foldl _ _ _ (by simpa using hi)]
  simp only [Works.modDet, Works.modChan_modChan]
  have e : ∀ ch : Channel, ({ ch with det := { ch.det with hold := [], loud := 0 } } : Channel).endSpan = ch.spanEnded := by
    intro ch
    simp [Channel.endSpan, Channel.spanEnded]
  simp only [e]
  rfl

end Sys2Proof.Machine
end

