-- ==== Sys2Proof/Laws/Pools.lean ====
section
/-! SUPPORT. What returning entries and slots to their pools does, and retiring slots. -/

namespace Sys2Proof.Machine

/-- Returning entries and slots, field by field. -/
theorem Works.giveBack_eq_given (k : Works) (entries : Nat) (slots : List Nat) :
    k.giveBack entries slots = k.given entries slots := by
  by_cases hs : slots = []
  · subst hs
    by_cases he : entries = 0
    · simp [Works.giveBack, Works.given, he]
    · simp only [Works.giveBack, Works.given, he, Works.entriesFreed]
      cases k.entryArmed <;> simp <;> split <;> simp_all
  · have hne : slots.isEmpty = false := by simp [hs]
    by_cases he : entries = 0
    · simp only [Works.giveBack, Works.given, he, hne, Works.slotsFreed]
      cases k.slotArmed <;> simp [hs] <;> split <;> simp_all
    · simp only [Works.giveBack, Works.given, he, hne, Works.slotsFreed, Works.entriesFreed]
      cases k.slotArmed <;> cases k.entryArmed <;>
        by_cases h1 : k.slotMark + 64 ≤ k.freePool.length + slots.length <;>
        by_cases h2 : k.entryMark + 64 ≤ k.freeEntries + entries <;> simp [h1, h2, hs, he]

/-- Retiring slots one after the other (R119): the table takes them in their order while it has room, the others are
counted, and the overflow flag is set by the first of those. -/
theorem Works.retire_foldl (k : Works) (source : DefectSource) (slots : List Nat) :
    slots.foldl (fun acc n => acc.retire n source) k =
      { k with
        defects := k.defects ++ (slots.take (64 - k.defects.length)).map fun n => ⟨n, source⟩,
        unlisted := k.unlisted + (slots.length - (64 - k.defects.length)),
        defectOverflow := k.defectOverflow || decide (64 - k.defects.length < slots.length) } := by
  induction slots generalizing k with
  | nil => simp
  | cons n rest ih =>
    rw [List.foldl_cons, ih]
    by_cases h : k.defects.length < 64
    · obtain ⟨room, hr⟩ : ∃ room, 64 - k.defects.length = room + 1 := ⟨64 - k.defects.length - 1, by omega⟩
      have h2 : 64 - (k.defects.length + 1) = room := by omega
      simp [Works.retire, Config.defectCount, h, hr, h2]
    · have hr : 64 - k.defects.length = 0 := by omega
      simp [Works.retire, Config.defectCount, h, hr]
      omega

end Sys2Proof.Machine
end

