-- ==== Sys2Proof/Laws/Queues.lean ====
section
/-! SUPPORT. What a grant takes from a capture pair, and what a FEED puts into a queue, record by record. -/

namespace Sys2Proof.Machine

/-- The oldest frame that waits, behind those in service (R81). -/
theorem serveOldest_eq {before after : List WaitFrame} {w : WaitFrame} (hb : ∀ v ∈ before, v.inService = true)
    (hw : w.inService = false) :
    serveOldest (before ++ w :: after) = before ++ { w with inService := true } :: after ∧
      (before ++ w :: after).find? (fun v => !v.inService) = some w := by
  induction before with
  | nil => simp [serveOldest, hw]
  | cons v vs ih =>
    have ih := ih fun x hx => hb x (List.mem_cons_of_mem _ hx)
    have hv := hb v (List.mem_cons_self ..)
    simp [serveOldest, hv, ih]

/-- What the queue holds of a record, given the slots taken from the pool's head and how many records before it took one
(R147). -/
def FedRecord.queuedBody (pool : List Nat) (taken : Nat) (r : FedRecord) : FeedBody :=
  match r.slotBytes with
  | some _ => .speech (pool.getD taken 0)
  | none => r.held

/-- The records of a FEED as the queue holds them, with enough slots in the pool (R149). -/
theorem queued_eq (rs : List FedRecord) (id : Nat) (pool : List Nat) (hp : (fedFrames rs).length ≤ pool.length) :
    queued id pool rs = rs.mapIdx fun n r => ⟨id + n, r.pos, r.queuedBody pool (fedFrames (rs.take n)).length⟩ := by
  induction rs generalizing id pool with
  | nil => rfl
  | cons r rs ih =>
    rw [List.mapIdx_cons]
    cases hs : r.slotBytes with
    | none =>
      have hp' : (fedFrames rs).length ≤ pool.length := by simpa [fedFrames, List.filterMap_cons, hs] using hp
      have e : ∀ n, fedFrames ((r :: rs).take (n + 1)) = fedFrames (rs.take n) := by
        intro n
        simp [fedFrames, hs]
      simp only [queued, hs, ih (id + 1) pool hp', e]
      congr 1
      · simp [FedRecord.queuedBody, hs]
      · congr 1
        funext n r'
        rw [show id + 1 + n = id + (n + 1) by omega]
    | some bytes =>
      cases pool with
      | nil => simp [fedFrames, hs] at hp
      | cons slot more =>
        have hp' : (fedFrames rs).length ≤ more.length := by simpa [fedFrames, List.filterMap_cons, hs] using hp
        have e : ∀ n, fedFrames ((r :: rs).take (n + 1)) = bytes :: fedFrames (rs.take n) := by
          intro n
          simp [fedFrames, hs]
        simp only [queued, hs, ih (id + 1) more hp', e]
        congr 1
        · simp [FedRecord.queuedBody, hs, fedFrames]
        · congr 1
          funext n r'
          rw [show id + 1 + n = id + (n + 1) by omega]
          simp [FedRecord.queuedBody]

end Sys2Proof.Machine
end

