-- ==== Sys2Proof/Laws/Requests.lean ====
section
/-! SUPPORT. What carrying a request out can do: it always answers a next state, and which one follows from its owner. -/

namespace Sys2Proof.Machine

/-- The state once the request at the front is taken, before its reply is placed. -/
def State.taken (s : State) (rest : List Message) : State :=
  { s with link := { s.link with rx := rest, tx := makeRoom s.link.tx } }

/-- The request at the front is taken when its kind is wanted. -/
theorem State.takeRequest_front {s : State} {m : Message} {rest : List Message} (h : s.AtFront m rest)
    {wanted : Byte → Bool} (hk : wanted m.kind = true) : s.takeRequest wanted = some (m, s.taken rest) := by
  obtain ⟨h1, h2, h3⟩ := h
  simp [State.takeRequest, State.taken, h1, h2, h3, hk]

/-- A request taken is the one at the front, of a kind wanted, from a part that takes requests. -/
theorem State.takeRequest_some {s s1 : State} {m : Message} {wanted : Byte → Bool}
    (h : s.takeRequest wanted = some (m, s1)) :
    wanted m.kind = true ∧ ∃ rest, s.AtFront m rest ∧ s1 = s.taken rest := by
  unfold State.takeRequest at h
  split at h
  · rename_i hc
    split at h
    · rename_i m' rest hrx
      split at h
      · rename_i hw
        simp only [Option.some.injEq, Prod.mk.injEq] at h
        obtain ⟨rfl, rfl⟩ := h
        simp only [Bool.and_eq_true, Bool.not_eq_true', Option.isNone_iff_eq_none] at hc
        exact ⟨hw, rest, ⟨hc.1, hc.2, hrx⟩, rfl⟩
      · cases h
    · cases h
  · cases h

/-- A request carried out at its owner. -/
theorem State.carryOut_front {s : State} {m : Message} {rest : List Message} (h : s.AtFront m rest) {kind : Byte}
    (hk : m.kind = kind) (owner : Message → State → Reply × State) :
    s.carryOut kind owner =
      .next ((owner m (s.taken rest)).2.placeReply m (owner m (s.taken rest)).1) := by
  simp [State.carryOut, State.takeRequest_front h (wanted := fun b => decide (b = kind)) (by simp [hk])]

/-- A request whose owner changes only the works. -/
theorem State.carryOut_works {s : State} {m : Message} {rest : List Message} (h : s.AtFront m rest) {kind : Byte}
    (hk : m.kind = kind) (owner : Message → Works → Reply × Works) :
    s.carryOut kind (onWorks owner) =
      .next (s.answered m rest (owner m s.works).1 (owner m s.works).2) := by
  rw [State.carryOut_front h hk]
  simp only [onWorks, State.placeReply, State.answered, State.taken]

/-- Carrying a request out answers a next state: the state as it is, or the owner's with the reply placed. -/
theorem State.carryOut_cases (s : State) (kind : Byte) (owner : Message → State → Reply × State) :
    s.carryOut kind owner = .next s ∨
      ∃ m rest, s.AtFront m rest ∧ m.kind = kind ∧
        s.carryOut kind owner = .next ((owner m (s.taken rest)).2.placeReply m (owner m (s.taken rest)).1) := by
  unfold State.carryOut
  split
  · exact Or.inl rfl
  · rename_i m s1 h
    obtain ⟨hk, rest, hf, rfl⟩ := State.takeRequest_some h
    exact Or.inr ⟨m, rest, hf, by simpa using hk, rfl⟩

/-- The transmit queue has room for the largest reply once the oldest bytes have left (R180). -/
theorem makeRoom_length (tx : List Byte) : (makeRoom tx).length ≤ Config.txBytes - Config.maxReply := by
  simp [makeRoom, Config.txBytes, Config.maxReply]
  omega

/-- A channel request's target, in a part whose scan is DONE. -/
theorem channelTarget_ok {m : Message} {k : Works} {c : Nat} (hd : k.startup = .done)
    (ht : targetOf m.target = .channel c) : channelTarget m k = .ok c := by
  simp [channelTarget, Works.startCheck, hd, ht]

/-- The same with a body of the right length. -/
theorem channelTargetSized_ok {m : Message} {k : Works} {c n : Nat} (hd : k.startup = .done)
    (ht : targetOf m.target = .channel c) (hl : m.body.length = n) : channelTargetSized m k n = .ok c := by
  simp [channelTargetSized, channelTarget_ok hd ht, hl]

/-- A device request's checks, in a part whose scan is DONE. -/
theorem deviceChecks_ok {m : Message} {k : Works} {gated : Bool} {fits : Nat → Bool} (hd : k.startup = .done)
    (ht : targetOf m.target = .device) (hl : fits m.body.length = true) : deviceChecks gated m k fits = none := by
  cases gated <;> simp [deviceChecks, Works.startCheck, hd, ht, hl]

/-- A dictation channel has its letter. -/
theorem Works.dictationLetter_ok {k : Works} {c i : Nat} {st : ChanState} (h : k.Dictates c i st) (hs : st ≠ .closed) :
    k.dictationLetter c = .ok i := by
  obtain ⟨h1, h2, h3⟩ := h
  simp [Works.dictationLetter, h1, h2, h3, hs]

/-- A dictation request passes the checks of its channel. -/
theorem dictationChecks_ok {m : Message} {k : Works} {c i : Nat} {st : ChanState} (hd : k.startup = .done)
    (ht : targetOf m.target = .channel c) (h : k.Dictates c i st) (hs : st ≠ .closed) :
    dictationChecks m k = .ok (c, i) := by
  simp [dictationChecks, channelTarget_ok hd ht, Works.dictationLetter_ok h hs]

/-- A letter request passes the checks of a READY channel (R52). -/
theorem readyChecks_ok {m : Message} {k : Works} {c i : Nat} (hd : k.startup = .done)
    (ht : targetOf m.target = .channel c) (hb : m.body = []) (h : k.Dictates c i .ready) :
    readyChecks m k = .ok (c, i) := by
  obtain ⟨h1, h2, h3⟩ := h
  simp [readyChecks, channelTargetSized_ok hd ht (show m.body.length = 0 by simp [hb]), Works.readyLetter, h1, h2, h3]

end Sys2Proof.Machine
end

