-- ==== Sys2Proof/Laws/Step.lean ====
section
/-! SUPPORT. The step: the command at the front of the queue, or one byte on LTXD. -/

namespace Sys2Proof.Machine

/-- With a command waiting, a step is that command on the queue's rest. -/
theorem step_cons {s : State} {c : Instr} {rest : List Instr} (h : s.pending = c :: rest) :
    step s = exec c { s with pending := rest } := by
  simp [step, h]

/-- With none waiting, a step is the idle part's. -/
theorem step_nil {s : State} (h : s.pending = []) : step s = .next s.idle := by simp [step, h]

/-- An idle step changes the transmit queue and nothing else. -/
theorem State.idle_eq (s : State) : s.idle = { s with link := { s.link with tx := s.idle.link.tx } } := by
  unfold State.idle
  split <;> rfl

/-- A step answers what a command answers, or the idle part's next state. -/
theorem step_cases (s : State) :
    (s.pending = [] ∧ step s = .next s.idle) ∨
      ∃ c rest, s.pending = c :: rest ∧ step s = exec c { s with pending := rest } := by
  cases h : s.pending with
  | nil => exact Or.inl ⟨rfl, step_nil h⟩
  | cons c rest => exact Or.inr ⟨c, rest, rfl, step_cons h⟩

end Sys2Proof.Machine
end

