-- ==== Sys2Proof/Tests/Slice0.lean ====
section
/-! SUPPORT. Tests: ill-formed commands, the spec's worked codings and layouts, small steps, and for every statement with
hypotheses a state and operands that meet them (witness_<statement>). -/

namespace Sys2Proof.Tests

set_option Elab.async false

open Sys2Proof.Machine

/-! ### The form of commands -/

theorem test_form_slot : (Instr.checkingEnd ⟨8192, [⟨8192, 0, 1#17⟩]⟩).wellFormed = false := by decide
theorem test_form_progress : (Instr.checkingEnd ⟨8193, []⟩).wellFormed = false := by decide
theorem test_form_word : (Instr.reqTake [⟨8191, 42, 1#17⟩]).wellFormed = false := by decide
theorem test_form_read : (Instr.decodeCompletion [⟨0, 0, 1#17⟩, ⟨9000, 0, 1#17⟩]).wellFormed = false := by decide
theorem test_form_slots_received : (Instr.sync (List.replicate 31 none)).wellFormed = false := by decide
theorem test_form_boundary : (Instr.frameBoundary (List.replicate 33 none)).wellFormed = false := by decide
theorem test_form_no_characters : (Instr.messageReceived []).wellFormed = false := by decide
theorem test_form_too_many : (Instr.messageReceived (List.replicate 1028 0#8)).wellFormed = false := by decide +kernel
theorem test_form_good :
    (Instr.checkingEnd ⟨8192, [⟨8191, 41, 1#17⟩]⟩).wellFormed = true ∧ (Instr.sync (List.replicate 32 none)).wellFormed = true ∧
      (Instr.messageReceived (List.replicate 1027 0#8)).wellFormed = true := by decide +kernel

/-! ### Worked frame coding (1.3) and layouts (R113, R124, R189) -/

/-- The frame of "An ordinary frame" (1.3), cut after its first six samples. -/
def ordinary : Frame := [100#16, 260#16, 420#16, 300#16, 500#16, 520#16]

theorem test_ordinary_exponent : frameExponent .standard 0#16 ordinary = 5 := by decide +kernel
theorem test_ordinary_codes : (encodeFrame .standard 0#16 ordinary).codes = [3, 5, 5, -4, 7, 0] := by
  decide +kernel
theorem test_ordinary_carry : finalReconstruction .standard 0#16 ordinary = 512#16 := by decide +kernel
theorem test_decode_saturates :
    decodeFrame ⟨.standard, 15, 0x7000#16, [7, -8, -1], false⟩ = [0x7FFF#16, 0x8000#16, 0x8000#16] := by decide +kernel
theorem test_standard_bytes : packStandard [1, -1, 7, -8] = [0xF1#8, 0x87#8] := by decide
theorem test_compact_bytes : packCompact [1, 2, 3, -4, -3, -2, -1, 0] = [0xD1#8, 0x58#8, 0x1F#8] := by decide
theorem test_header :
    headerByte ⟨.standard, 5, 0#16, [], false⟩ = 0x15#8 ∧ headerByte ⟨.compact, 15, 0#16, [], true⟩ = 0x2F#8 := by decide
theorem test_parity : withParity 0#16 = 0x10000#17 ∧ withParity 1#16 = 1#17 ∧ withParity 3#16 = 0x10003#17 := by decide
theorem test_word_order : wordsOfBytes [0x34#8, 0x12#8] = [withParity 0x1234#16] := by decide
theorem test_pattern_first : ((patternWords [] 0).take 2).map (fun w => w.setWidth 16) = [0x0006#16, 0x0014#16] := by
  decide +kernel
theorem test_pattern_slots : patternWords [0] 1 = patternWords [] 0 ∧ patternWords [] 1 ≠ patternWords [] 0 := by
  decide +kernel
theorem test_power_on_slot :
    Store.blank.read [] 8191 = .ok (some (List.replicate 84 0#8)) ∧ Store.blank.read [] 8192 = .error (.noSuchSlot 8192) := by
  decide +kernel
theorem test_fields : leBytes 3 0x123456 = [0x56#8, 0x34#8, 0x12#8] ∧ leSigned [0xFE#8, 0xFF#8, 0xFF#8, 0xFF#8] = -2 := by
  decide

/-! ### Small states -/

/-- A request message. -/
def request (kind target : Byte) (body : List Byte) : Message := ⟨kind, target, 0x11#8, body⟩

/-- The works of a part whose scan is DONE, with three free slots. -/
def doneWorks : Works := { Works.start [] 0 with startup := .done, freePool := [0, 1, 8191] }

/-- A part with one request waiting in its receive queue. -/
def asking (k : Works) (m : Message) : State :=
  { State.reset with link := { Link.start .mbaud1 with rx := [m] }, works := k }

/-- A dictation channel with letter 31. -/
def dictating (st : ChanState) : Channel :=
  { Channel.initial with kind := .dictation, state := st, letter := some 31, recMode := some .insert,
                         playPoint := some 5, prepPoint := some 5, stopPoint := some 6 }

/-- A letter of channel 19: a CODED position at 4 after the seal boundary, and a pause of 3. -/
def attached : Letter :=
  { Letter.freeRecord with state := .attached, job := 7, channel := some 19,
                           edit := [⟨1, .speech (some 5)⟩, ⟨2, .run .pause 3⟩], cursor := 6, sealB := 4, length := 8,
                           marks := [⟨.sectionMark, 9#16, 8⟩] }

/-- Works with channel 19 and letter 31 as given. -/
def holding (ch : Channel) (l : Letter) : Works :=
  (doneWorks.modChan 19 fun _ => ch).modLetter 31 fun _ => l

/-- Works with channel 19 dictating. -/
def dictation (st : ChanState) : Works := holding (dictating st) attached

/-- A transcription channel with three records queued. -/
def playing (st : ChanState) : Channel :=
  { Channel.initial with kind := .transcription, state := st, expected := some 12, playPoint := some 11,
                         feed := [⟨1, 10, .pause 1⟩, ⟨2, 11, .speech 3⟩, ⟨3, 12, .mark .sectionMark 9#16 true⟩] }

/-- Works with channel 19 a transcription channel. -/
def transcription (st : ChanState) : Works := doneWorks.modChan 19 fun _ => playing st

/-! ### Small steps -/

theorem test_identify :
    ((match exec .reqIdentify (asking doneWorks (request 0x01#8 0xFF#8 [])) with
      | .next t => t.link.tx
      | _ => [])) =
      [0xD7#8, 15#8, 0#8, 0x81#8, 0xFF#8, 0x11#8, 0x00#8] ++
        [0x57#8, 0x4E#8, 0xF8#8, 0x07#8, 0x01#8, 20#8, 0x00#8, 0x20#8, 0x00#8, 0x30#8, 32#8] := by decide +kernel

theorem test_open_lowest :
    ((match exec .reqOpen (asking doneWorks (request 0x11#8 19#8 [7#8, 0#8, 0#8, 0#8])) with
      | .next t => ((t.works.chan 19).state, (t.works.letter 0).job, t.link.tx.drop 6)
      | _ => (.closed, 0, []))) = (.ready, 7, [0#8, 0#8]) := by decide +kernel

theorem test_idle_sends :
    ((match step { State.reset with link := { Link.start .mbaud1 with tx := [1#8, 2#8] } } with
      | .next t => t.link.tx
      | _ => [])) = [2#8] := by decide +kernel

/-- A part that has checked the slots below 8140, with slot 8191 in its factory list, and so many slots retired that are not
listed. -/
def checking (unlisted : Nat) : State :=
  { State.reset with
    store := Store.blank.writePattern [8191],
    works := { Works.start [8191] 0 with
      startup := .checking, defects := [⟨8191, .factory⟩], unlisted := unlisted, checked := 8140 } }

/-- How the scan of a part stands after CHECKING has come to a slot, with an error in slot 8144. -/
def checkedTo (s : State) (upTo : Nat) : Startup × List Defect × Nat × Nat :=
  match exec (.checkingEnd ⟨upTo, [⟨8144, 41, 1#17⟩]⟩) s with
  | .next t => (t.works.startup, t.works.defects, t.works.unlisted, t.works.freePool.length)
  | _ => (.loading, [], 0, 0)

theorem test_scan_in_progress :
    checkedTo (checking 0) 8145 = (.checking, [⟨8191, .factory⟩, ⟨8144, .scan⟩], 0, 0) := by decide +kernel

/-! ### Witnesses -/

theorem witness_EmptyQueueSendsOneByte : State.reset.pending = [] := rfl

theorem witness_LoadingEndListsTheFactorySlots :
    State.reset.resetAsserted = false ∧ State.reset.works.startup = .loading := ⟨rfl, rfl⟩

theorem witness_ScanWritesThenRetires :
    (let s : State := { checking 0 with works := { (checking 0).works with startup := .writing } }
     s.resetAsserted = false ∧ s.works.startup = .writing ∧ 0 ∉ s.works.defects.map Defect.slot ∧
       8191 ∈ s.works.defects.map Defect.slot) ∧
    ((∀ n, n < 14 → patternBit n = false) ∧ patternBit 14 = true ∧
      (∀ n, patternBit (n + 15) = (patternBit n ^^ patternBit (n + 1))) ∧ [8191].Nodup ∧ 41 < 42 ∧ 15 < 16) ∧
    (∀ unlisted, (checking unlisted).resetAsserted = false ∧ (checking unlisted).works.startup = .checking) ∧
    (∃ n, n < 8192 ∧ (checking 0).works.checked ≤ n ∧ 8190 ≤ n ∧ ∀ d ∈ (checking 0).works.defects, d.slot ≠ n) ∧
    (¬∃ n, n < 8192 ∧ (checking 0).works.checked ≤ n ∧ 8192 ≤ n ∧ ∀ d ∈ (checking 0).works.defects, d.slot ≠ n) ∧
    checkedTo (checking 1022) 8192 = (.done, [⟨8191, .factory⟩, ⟨8144, .scan⟩], 1022, 8190) ∧
    checkedTo (checking 1023) 8192 = (.failed, [⟨8191, .factory⟩, ⟨8144, .scan⟩], 1023, 0) := by
  refine ⟨by decide +kernel, ⟨patternBit_start.1, patternBit_start.2, patternBit_recurs, by decide, by decide, by decide⟩,
    fun _ => ⟨rfl, rfl⟩, ⟨8190, by decide +kernel⟩, ?_, by decide +kernel, by decide +kernel⟩
  rintro ⟨n, h1, -, h2, -⟩
  omega

/-- A part with a RESTART taken. -/
def restarting (kind : RestartKind) (st : Startup) : State :=
  { State.reset with link := { Link.start .mbaud1 with restart := some kind }, works := { doneWorks with startup := st } }

theorem witness_RestartFullTakesTheStartValues :
    ((restarting .full .done).resetAsserted = false ∧ (restarting .full .done).link.restart = some .full) ∧
      (restarting .keep .failed).link.restart = some .keep ∧ (restarting .keep .failed).works.startup ≠ .done := by
  decide

theorem witness_RestartKeepKeepsTheLetters :
    (restarting .keep .done).resetAsserted = false ∧ (restarting .keep .done).link.restart = some .keep ∧
      (restarting .keep .done).works.startup = .done := by decide

/-- A part whose receiver is in a state. -/
def receiving (r : Receiver) : State := { State.reset with link := { Link.start .mbaud1 with receiver := r } }

theorem witness_ReceiverAssemblesMessages :
    (∀ r, (receiving r).resetAsserted = false ∧ (receiving r).link.restart = none ∧ (receiving r).link.breakOn = false) ∧
      (receiving .hunting).link.receiver = .hunting ∧ (receiving (.lengthBytes [])).link.receiver = .lengthBytes [] ∧
      (receiving (.collecting 3 [] false)).link.receiver = .collecting [1#8, 0xFF#8, 5#8].length [] false ∧
      [].reverse ++ [1#8, 0xFF#8, 5#8] = 1#8 :: 0xFF#8 :: 5#8 :: ([] : List Byte) ∧
      (receiving (.collecting 1 [] true)).link.receiver = .collecting [0#8].length [] true ∧
      ({ State.reset with resetAsserted := true } : State).resetAsserted = true ∧
      (restarting .keep .done).link.restart ≠ none :=
  ⟨fun _ => ⟨rfl, rfl, rfl⟩, rfl, rfl, rfl, rfl, rfl, rfl, by decide⟩

theorem witness_LinkFaultsDiscardTheMessage :
    ((receiving (.lengthBytes [])).resetAsserted = false ∧ (receiving (.lengthBytes [])).link.restart = none ∧
      (receiving (.lengthBytes [])).link.breakOn = false) ∧
      ({ State.reset with link := { Link.start .mbaud1 with breakOn := true } } : State).link.breakOn = true := by decide

theorem witness_UnknownKindIsRefused :
    (asking doneWorks (request 0x08#8 0#8 [])).AtFront (request 0x08#8 0#8 []) [] ∧
      (request 0x08#8 0#8 []).kind ∉ knownKinds := ⟨⟨rfl, rfl, rfl⟩, by decide⟩

theorem witness_IdentifyReportsThePart :
    (asking doneWorks (request 0x01#8 0xFF#8 [])).AtFront (request 0x01#8 0xFF#8 []) [] := ⟨rfl, rfl, rfl⟩

theorem witness_StatusReportsAndClears :
    (∀ target, (asking (dictation .ready) (request 0x02#8 target [])).AtFront (request 0x02#8 target []) []) ∧
      targetOf 0xFF#8 = .device ∧
      (targetOf 19#8 = .channel 19 ∧ ((dictation .ready).chan 19).kind = .dictation ∧
        ((dictation .ready).chan 19).letter = some 31) ∧
      (targetOf 0#8 = .channel 0 ∧ ((dictation .ready).chan 0).kind = .noKind) ∧
      ((transcription .playing).chan 19).kind = .transcription ∧ targetOf 0x3F#8 = .letter 31 := by
  exact ⟨fun _ => ⟨rfl, rfl, rfl⟩, by decide +kernel⟩

theorem witness_ConfigureLoadsItsFields :
    (asking doneWorks (request 0x03#8 0xFF#8 [2#8, 41#8])).AtFront (request 0x03#8 0xFF#8 [2#8, 41#8]) [] ∧
      (request 0x03#8 0xFF#8 [2#8, 41#8]).AsksDevice 0x03#8 doneWorks ∧
      configBody [2#8, 41#8] = some { Configured.nothing with tolerance := some 41 } :=
  ⟨⟨rfl, rfl, rfl⟩, ⟨rfl, by decide, rfl⟩, by decide⟩

/-- Works with a masked and an enabled event pending. -/
def pendingWorks : Works :=
  { doneWorks with events := [⟨.startDone, 255, 0#32, 0#16⟩, ⟨.late, 19, 0#32, 0#16⟩], mask := 0x00000800#32 }

theorem witness_PollDeliversTheFirstEnabledEvent :
    (asking pendingWorks (request 0x04#8 0xFF#8 [])).AtFront (request 0x04#8 0xFF#8 []) [] ∧
      (request 0x04#8 0xFF#8 []).AsksDevice 0x04#8 pendingWorks ∧ pendingWorks.EventsOrdered ∧
      pendingWorks.events = [⟨.startDone, 255, 0#32, 0#16⟩] ++ ⟨.late, 19, 0#32, 0#16⟩ :: [] ∧
      (∀ f ∈ [(⟨.startDone, 255, 0#32, 0#16⟩ : Event)], pendingWorks.mask.getLsbD f.kind.maskBit = false) ∧
      pendingWorks.mask.getLsbD EventKind.late.maskBit = true ∧
      (∀ f ∈ doneWorks.events, doneWorks.mask.getLsbD f.kind.maskBit = false) :=
  ⟨⟨rfl, rfl, rfl⟩, ⟨rfl, by decide, rfl⟩, by unfold Works.EventsOrdered; decide, by decide⟩

theorem witness_DefectsReportsTheTable :
    (asking doneWorks (request 0x05#8 0xFF#8 [])).AtFront (request 0x05#8 0xFF#8 []) [] := ⟨rfl, rfl, rfl⟩

theorem witness_RestartIsTaken :
    (asking doneWorks (request 0x06#8 0xFF#8 [2#8])).AtFront (request 0x06#8 0xFF#8 [2#8]) [] ∧
      (request 0x06#8 0xFF#8 [2#8]).body = [if RestartKind.keep = .full then 1#8 else 2#8] :=
  ⟨⟨rfl, rfl, rfl⟩, by decide⟩

/-- The body of a SET of quiet threshold 0 at channels 0 and 19. -/
def setBody : List Byte := [0x01#8, 0x00#8, 0x08#8, 0x00#8, 0x02#8, 0x00#8, 0x00#8]

theorem witness_SetLoadsOrStages :
    (asking (dictation .recording) (request 0x07#8 0xFF#8 setBody)).AtFront (request 0x07#8 0xFF#8 setBody) [] ∧
      (request 0x07#8 0xFF#8 setBody).AsksDevice 0x07#8 (dictation .recording) ∧
      setBodyOf setBody = some ([0, 19], [.quiet 0], false) ∧ (dictation .recording).chans.length = 20 ∧
      ((dictation .recording).chan 0).state = .closed ∧ ((dictation .recording).chan 19).state = .recording ∧
      (setBodyOf ([0x00#8, 0x00#8, 0x08#8, 0x00#8] ++ [6#8, 0xFA#8, 0#8, 8#8, 0xFB#8, 0#8, 9#8, 1#8, 0#8]) =
          some ([19], [.window 250, .backspace 250, .trim 1], true) ∧
        ((dictation .ready).chan 19).state = .ready ∧ ((dictation .ready).chan 19).letter = some 31 ∧
        ((transcription .ended).chan 19).state = .ended ∧ ((transcription .stopped).chan 19).state = .stopped) ∧
      setBodyOf [0#8, 0#8, 0#8, 0#8] = some ([], [], false) ∧
      setBodyOf [0x00#8, 0x00#8, 0x08#8, 0x00#8, 0x0C#8, 0x00#8, 0x00#8] = none ∧ ([0#8, 0#8, 0#8] : List Byte).length < 4 ∧
      (([0#8, 0#8, 0#8, 0#8, 1#8] : List Byte).length - 4) % 3 ≠ 0 :=
  ⟨⟨rfl, rfl, rfl⟩, ⟨rfl, by decide, rfl⟩, by decide +kernel⟩

theorem witness_BindReplacesBothBindings :
    let m := request 0x10#8 19#8 [31#8, 0xFF#8]
    let s := asking (dictation .ready) m
    let held : State :=
      { asking doneWorks m with line := { Line.start with bindings := Line.start.bindings.set 0 ⟨some 31, none⟩ } }
    s.AtFront m [] ∧ m.AsksChannel 0x10#8 19 s.works ∧ bindBody m.body = some ⟨some 31, none⟩ ∧
      (s.works.chan 19).state ≠ .closed ∧ (doneWorks.chan 19).state = .closed ∧ (held.line.binding 0).rx = some 31 ∧
      ∀ d, d < 20 → (Line.start.binding d).rx = none :=
  ⟨⟨rfl, rfl, rfl⟩, ⟨rfl, by decide, rfl⟩, by decide +kernel⟩

theorem witness_OpenAndAttachTakeALetter :
    let m := request 0x11#8 0#8 [7#8, 0#8, 0#8, 0#8]
    let n := request 0x12#8 0#8 [7#8, 0#8, 0#8, 0#8]
    let k (st : LetterState) := doneWorks.modLetter 31 fun _ => { attached with state := st, channel := none }
    let full : Works := { doneWorks with letters := List.replicate 32 attached }
    (asking doneWorks m).AtFront m [] ∧ m.AsksChannel 0x11#8 0 doneWorks ∧ n.AsksChannel 0x12#8 0 (k .detached) ∧
      (doneWorks.chan 0).state = .closed ∧ (∃ l ∈ (k .detached).letters, l.state ≠ .free ∧ l.job = leValue m.body) ∧
      (∀ l ∈ full.letters, l.state ≠ .free) ∧ (¬∃ l ∈ doneWorks.letters, l.state ≠ .free ∧ l.job = leValue m.body) ∧
      (doneWorks.letter 0).state = .free ∧
      (∀ j, j < 31 → ((k .detached).letter j).state = .free ∨ ((k .detached).letter j).job ≠ leValue n.body) ∧
      ((k .detached).letter 31).state = .detached ∧ ((k .sealing).letter 31).state = .sealing ∧
      ((k .attached).letter 31).state = .attached ∧ ((k .attached).letter 31).job = leValue n.body :=
  ⟨⟨rfl, rfl, rfl⟩, ⟨rfl, by decide, rfl⟩, ⟨rfl, by decide, rfl⟩, by decide +kernel⟩

/-- Channel 19 dictates in a state. -/
theorem dictation_dictates (st : ChanState) : (dictation st).Dictates 19 31 st := ⟨rfl, rfl, rfl⟩

theorem witness_DetachAndEndReleaseTheChannel :
    let m := request 0x13#8 19#8 []
    (asking (dictation .ready) m).AtFront m [] ∧ targetOf m.target = .channel 19 ∧
      (dictation .ready).Dictates 19 31 .ready :=
  ⟨⟨rfl, rfl, rfl⟩, by decide, dictation_dictates _⟩

theorem witness_DiscardReturnsTheLetter :
    let m := request 0x15#8 0xFF#8 [7#8, 0#8, 0#8, 0#8]
    let k := doneWorks.modLetter 31 fun _ => { attached with state := .sealing, channel := none }
    (dictation .ready).Dictates 19 31 .ready ∧ (asking k m).AtFront m [] ∧ targetOf m.target = .device ∧
      31 < k.letters.length ∧ (k.letter 31).state ≠ .free ∧ (k.letter 31).state ≠ .attached ∧
      (k.letter 31).job = leValue m.body ∧
      (∀ j, j < 31 → (k.letter j).state = .free ∨ (k.letter j).job ≠ leValue m.body) ∧
      ((dictation .ready).letter 31).state = .attached :=
  ⟨dictation_dictates _, ⟨rfl, rfl, rfl⟩, by decide +kernel⟩

theorem witness_TruncateEndsTheLetterAtItsCursor :
    let m := request 0x16#8 19#8 []
    (asking (dictation .ready) m).AtFront m [] ∧ m.AsksChannel 0x16#8 19 (dictation .ready) ∧
      (dictation .ready).Dictates 19 31 .ready :=
  ⟨⟨rfl, rfl, rfl⟩, ⟨rfl, by decide, rfl⟩, dictation_dictates _⟩

theorem witness_RunsAreDividedWithoutLoss :
    (∀ e ∈ attached.edit, 1 ≤ e.count) ∧ attached.sealB ≤ 6 ∧ 6 ≤ attached.sealB + spanOf attached.edit ∧
      attached.splitRun 6 9 =
        some [⟨1, .speech (some 5)⟩, ⟨2, .run .pause 1⟩, ⟨9, .run .pause 2⟩] ∧
      (attached.edit = [] ++ ⟨1, .speech (some 5)⟩ :: [⟨2, .run .pause 3⟩] ∧ 4 = attached.sealB + spanOf [] ∧
        1 ≤ (⟨1, .speech (some 5)⟩ : Entry).count) ∧
      (attached.edit = [⟨1, .speech (some 5)⟩] ++ ⟨2, .run .pause 3⟩ :: [] ∧
        5 = attached.sealB + spanOf [⟨1, .speech (some 5)⟩] ∧ 5 < 7 ∧ 7 < 5 + 3) ∧
      attached.sealB + spanOf attached.edit ≤ 8 := by decide

theorem witness_PlacementAndGrowthTakeOnePosition :
    (⟨9, .speech none⟩ : Entry).count = 1 ∧ attached.sealB ≤ 4 ∧ 8 ≤ attached.sealB + spanOf attached.edit ∧
      attached.edit = [⟨1, .speech (some 5)⟩] ++ ⟨2, .run .pause 3⟩ :: [] ∧
      ∀ e ∈ [(⟨1, .speech (some 5)⟩ : Entry)], e.id ≠ 2 := by decide

theorem witness_SealingIsApplied :
    let ended : Letter := { attached with cursor := 8 }
    let k := holding { dictating .ready with settings := { Settings.defaults with window := 3 } } attached
    ((∀ e ∈ attached.edit, 1 ≤ e.count) ∧ attached.edit = [⟨1, .speech (some 5)⟩] ++ ⟨2, .run .pause 3⟩ :: [] ∧
      attached.length = attached.sealB + spanOf attached.edit ∧ 5 ≤ attached.cursor ∧ attached.cursor < 5 + 3) ∧
    ended.cursor = ended.length ∧ (attached.sealable 3).1 = [⟨1, .speech (some 5)⟩] ∧ (attached.sealable 4).1 = [] ∧
      (k.letter 31).state = .attached ∧ (k.letter 31).channel = some 19 ∧
      ((k.letter 31).sealable (k.chan 19).settings.window).1 ≠ [] ∧
      (((dictation .ready).letter 31).sealable ((dictation .ready).chan 19).settings.window).1 = [] := by decide +kernel

theorem witness_RecordAndStopBoundTheSpan :
    let m := request 0x20#8 19#8 [2#8]
    (∀ st, (asking (dictation st) m).AtFront m [] ∧ (dictation st).Dictates 19 31 st) ∧
      m.AsksChannel 0x20#8 19 (dictation .ready) ∧ m.body = [if RecMode.overwrite = .insert then 1#8 else 2#8] ∧
      ((dictation .reviewing).chan 19).playPoint = some 5 ∧ 19 < (dictation .reviewing).chans.length ∧
      (doneWorks.chan 19).state = .closed :=
  ⟨fun _ => ⟨⟨rfl, rfl, rfl⟩, dictation_dictates _⟩, ⟨rfl, by decide, rfl⟩, by decide +kernel⟩

theorem witness_WindAndReviewMoveInTheLetter :
    let m := request 0x22#8 19#8 [5#8, 0#8, 0#8, 0#8, 0#8]
    let n := request 0x23#8 19#8 [2#8, 6#8, 0#8, 0#8]
    (∀ st, (asking (dictation st) m).AtFront m [] ∧ (dictation st).Dictates 19 31 st) ∧
      m.AsksChannel 0x22#8 19 (dictation .ready) ∧ n.AsksChannel 0x23#8 19 (dictation .ready) ∧
      windBody m.body = some (.toMark 0) ∧ 0 < attached.marks.length ∧ attached.sealB ≤ attached.length ∧
      31 < (dictation .ready).letters.length ∧
      ((dictation .reviewing).chan 19).playPoint = some 5 ∧ reviewBody n.body = some (.atPosition 6) ∧
      attached.cursor ≤ attached.length ∧ reviewBody [1#8, 0#8, 0#8, 0#8] = some .atEnd :=
  ⟨fun _ => ⟨⟨rfl, rfl, rfl⟩, dictation_dictates _⟩, ⟨rfl, by decide, rfl⟩, ⟨rfl, by decide, rfl⟩, by decide +kernel⟩

theorem witness_MarkRequestsKeepTheTable :
    let m := request 0x24#8 19#8 [2#8, 1#8, 0#8]
    let full : Letter := { attached with marks := List.replicate 16 ⟨.sectionMark, 0#16, 4⟩ }
    (asking (dictation .ready) m).AtFront m [] ∧ m.AsksChannel 0x24#8 19 (dictation .ready) ∧
      markBody m.body = some (.sectionMark, 1#16) ∧ (dictation .recording).Dictates 19 31 .recording ∧
      full.marks.length = 16 ∧
      (full.marks.any fun k => decide (k.kind = .sectionMark ∧ k.pos = 6)) = false ∧ attached.marks.length < 16 ∧
      { attached with cursor := 4 }.splitRun 4 0 = none ∧
      attached.splitRun 6 0 = some [⟨1, .speech (some 5)⟩, ⟨2, .run .pause 1⟩, ⟨0, .run .pause 2⟩] ∧
      0 < (dictation .ready).freeEntries ∧ { dictation .ready with freeEntries := 0 }.freeEntries = 0 :=
  ⟨⟨rfl, rfl, rfl⟩, ⟨rfl, by decide, rfl⟩, by decide, dictation_dictates _, by decide +kernel⟩

/-- A TAKE of job 7. -/
def takeRequest (n : Byte) : Message := request 0x30#8 0xFF#8 [7#8, 0#8, 0#8, 0#8, n]

/-- Works with letter 31 alone. -/
def letterAlone (l : Letter) : Works := doneWorks.modLetter 31 fun _ => l

/-- A letter with one sealed entry. -/
def sealedLetter (b : EntryBody) (ms : List Mark) : Letter := { attached with sealedList := [⟨⟨1, b⟩, ms⟩] }

/-- Slots of which number 5 holds a frame record. -/
def oneSlot : Store := Store.blank.write 5 [0x10#8, 0x01#8, 0x00#8]

theorem witness_TakeGivesTheItemAtTheFront :
    (∀ b ms, (asking (letterAlone (sealedLetter b ms)) (takeRequest 1#8)).AtFront (takeRequest 1#8) [] ∧
      (takeRequest 1#8).AsksDevice 0x30#8 (letterAlone (sealedLetter b ms)) ∧
      (sealedLetter b ms).sealedList = ⟨⟨1, b⟩, ms⟩ :: [] ∧ (sealedLetter b ms).endTaken = false) ∧
      (letterAlone (sealedLetter (.run .pause 3) [])).findJob (leValue [7#8, 0#8, 0#8, 0#8]) = some 31 ∧
      oneSlot.read [] 5 = .ok (some ([0x10#8, 0x01#8, 0x00#8] ++ List.replicate 81 0#8)) ∧
      oneSlot.read [⟨5, 41, 1#17⟩] 5 = .ok none ∧ oneSlot.read [] 8192 = .error (.noSuchSlot 8192) ∧
      (let l : Letter :=
        { attached with
          state := .sealing, edit := [], cursor := 8, sealB := 8,
          sealedList := [⟨⟨1, .speech (some 5)⟩, [⟨.sectionMark, 1#16, 4⟩]⟩, ⟨⟨2, .run .pause 3⟩, []⟩] }
       (l.sealedList.map fun x => x.entry.count).sum ≤ l.sealB ∧ l.stream.length = 5 ∧ oneSlot.words 5 ≠ none ∧
        (∀ e ∈ (l.stream.take 8).filterMap Offer.entry?, e.body ≠ .speech none) ∧
        (∀ slot ∈ slotsOf ((l.stream.take 8).filterMap Offer.entry?), slot = 5)) ∧
      (attached.sealedList = [] ∧ attached.state ≠ .sealing ∧ attached.endTaken = false) ∧
      ({ attached with state := .sealing }.state = .sealing ∧ max 1 (min 8 0) ≤ attached.marks.length ∧
        attached.marks.length < max 1 (min 8 2)) := by
  refine ⟨fun _ _ => ⟨⟨rfl, rfl, rfl⟩, ⟨rfl, by decide, rfl⟩, rfl, rfl⟩, ?_⟩
  decide +kernel

theorem witness_LoadUnloadAndHalt :
    (∀ kind body k, (asking k (request kind 19#8 body)).AtFront (request kind 19#8 body) []) ∧
      targetOf 19#8 = .channel 19 ∧ ((transcription .playing).chan 19).state ≠ .closed ∧
      (doneWorks.chan 19).state = .closed ∧ ((transcription .stopped).chan 19).kind = .transcription ∧
      ((transcription .stopped).chan 19).state = .stopped ∧ ((transcription .starved).chan 19).state = .starved := by
  exact ⟨fun _ _ _ => ⟨rfl, rfl, rfl⟩, by decide +kernel⟩

/-- The body of a FEED of one PAUSE record at a position. -/
def feedPause (p n : Byte) : List Byte := [1#8, 2#8, p, 0#8, 0#8, n]

theorem witness_FeedQueuesItsRecords :
    let m := request 0x33#8 19#8 (feedPause 12#8 250#8)
    let k := transcription .stopped
    let full : Channel := { playing .stopped with feed := List.replicate 96 ⟨0, 11, .pause 1⟩ }
    (asking k m).AtFront m [] ∧ m.AsksChannel 0x33#8 19 k ∧ (k.chan 19).kind = .transcription ∧
      (k.chan 19).state ≠ .closed ∧ feedBody (feedPause 12#8 250#8) = some [.pause 12 250] ∧ 19 < k.chans.length ∧
      follows 12 [.pause 12 250] = true ∧ follows 12 [.pause 13 1] = false ∧
      endFollowed [.endOf 12, .pause 12 1] = true ∧ endFollowed [.pause 12 250] = false ∧ (k.chan 19).endFed = false ∧
      96 < full.feed.length + [FedRecord.pause 12 250].length ∧
      { k with freeEntries := 0 }.freeEntries < [FedRecord.pause 12 250].length ∧
      ¬(96 < (k.chan 19).feed.length + [FedRecord.pause 12 250].length) ∧
      ¬(64 < ((k.chan 19).feed.filterMap FeedRec.slot).length + 8) ∧ ¬(k.freeEntries < [FedRecord.pause 12 250].length) ∧
      ¬(k.freePool.length < [FedRecord.speech 12 [0x10#8]].length) :=
  ⟨⟨rfl, rfl, rfl⟩, ⟨rfl, by decide, rfl⟩, by decide +kernel⟩

theorem witness_PlayAndStepFromThePlayPoint :
    let m := request 0x34#8 19#8 [1#8]
    let n := request 0x36#8 19#8 [0xFF#8, 0xFF#8, 0xFF#8, 0xFF#8]
    (∀ st, (asking (transcription st) m).AtFront m [] ∧ ((transcription st).chan 19).state = st) ∧
      m.AsksChannel 0x34#8 19 (transcription .stopped) ∧ n.AsksChannel 0x36#8 19 (transcription .ended) ∧
      m.body = [if true then 1#8 else 0#8] ∧ ((transcription .stopped).chan 19).kind = .transcription ∧
      ((transcription .stopped).chan 19).playPoint = some 11 ∧ ((transcription .stopped).chan 19).expected = some 12 ∧
      ((transcription .stopped).chan 19).retainedStart = some 10 ∧ 10 ≤ 12 ∧ leSigned n.body = -1 ∧
      ({ playing .stopped with playPoint := none, expected := none, feed := [] }).playPoint = none ∧
      (let ch : Channel := { playing .ended with settings := { Settings.defaults with feedLow := 1 } }
       ch.endFed = false ∧ ch.settings.feedLow ≤ 12 - 11 ∧ 12 - 12 < ch.settings.feedLow) :=
  ⟨fun _ => ⟨⟨rfl, rfl, rfl⟩, rfl⟩, ⟨rfl, by decide, rfl⟩, ⟨rfl, by decide, rfl⟩, by decide +kernel⟩

/-- Two channels of the start bind nothing. -/
theorem start_exclusive : Line.start.Exclusive := by
  intro c d slot hc hd _
  have h : ∀ c, c < 20 → Line.start.binding c = ⟨none, none⟩ := by decide
  constructor <;> intro hs <;> simp [h c hc] at hs

/-- A line port with transmit timeslot 31 bound to channel 19. -/
def oneBound : Line := { Line.start with frameCounter := 158, bindings := Line.start.bindings.set 19 ⟨none, some 31⟩ }

theorem oneBound_exclusive : oneBound.Exclusive := by
  intro c d slot hc hd hne
  have h : ∀ c, c < 20 → (oneBound.binding c).rx = none ∧ (c ≠ 19 → (oneBound.binding c).tx = none) := by decide
  constructor
  · intro hs; simp [(h c hc).1] at hs
  · intro hs
    by_cases h1 : c = 19
    · have h2 : d ≠ 19 := fun h3 => hne (h1.trans h3.symm)
      simp [(h d hd).2 h2] at hs
    · simp [(h c hc).2 h1] at hs

theorem witness_SyncCountsAndHandsSamples :
    State.reset.resetAsserted = false ∧ oneBound.frameCounter + 1 < 160 ∧ (oneBound.binding 19).tx = some 31 ∧
      (∀ c, c < 20 → (oneBound.binding c).tx ≠ some 30) ∧ oneBound.Exclusive :=
  ⟨rfl, by decide, by decide, by decide, oneBound_exclusive⟩

/-- Channel 19 recording at a boundary that lowers its onset count while it holds a frame. -/
def lowering (started : Bool) : Channel :=
  { dictating .recording with
    captureStarted := started, settings := { Settings.defaults with onset := 3 },
    staged := { Staged.empty with onset := some 2 }, det := { Detector.start with phase := .pause, loud := 1, hold := [[]] } }

/-- A letter one position short of its limit. -/
def nearlyFull : Letter := { attached with sealB := 16777210, cursor := 16777212, length := 16777214, marks := [] }

theorem witness_FrameBoundaryFollowsTheSamples :
    (let s : State := { State.reset with line := { oneBound with frameCounter := 159 } }
     s.resetAsserted = false ∧ s.line.frameCounter = 159 ∧ s.line.Exclusive ∧ (s.line.binding 19).tx = some 31 ∧
      ∀ c, c < 20 → (s.line.binding c).tx ≠ some 30) ∧
      (∀ started l, 19 < (holding (lowering started) l).chans.length ∧
        ((holding (lowering started) l).chan 19).state = .recording) ∧
      (lowering true).loaded.onset < (lowering true).settings.onset ∧
      ((holding (lowering true) nearlyFull).releaseHeld 19).chan 19 ≠ lowering true ∧
      (((holding (lowering true) nearlyFull).releaseHeld 19).chan 19).state ≠ .recording ∧
      (((holding (lowering true) attached).releaseHeld 19).chan 19).state = .recording ∧
      (((holding (lowering true) attached).releaseHeld 19).chan 19).captureStarted = true ∧
      (((holding (lowering false) attached).releaseHeld 19).chan 19).captureStarted = false ∧
      (dictating .ready).state ≠ .recording ∧ (playing .playing).state ≠ .reviewing :=
  ⟨⟨rfl, rfl, oneBound_exclusive, by decide, by decide⟩, fun _ _ => ⟨by simp [holding, doneWorks, Works.start, Config.channelCount], rfl⟩, by decide +kernel⟩

/-- A part whose monitor is in a state. -/
def ticking (lock : Lock) (ticks window good : Nat) : State :=
  { State.reset with monitor := { Monitor.start 2 with lock := lock, ticks := ticks, windowTicks := window, good := good } }

theorem witness_TicksBringAbsenceAndWindowEnds :
    ((ticking .absent 4 0 0).resetAsserted = false ∧ (ticking .absent 4 0 0).monitor.ticks ≤ 4) ∧
      ((ticking .locked 3 7999 2).monitor.lock ≠ .absent ∧ (ticking .locked 3 7999 2).monitor.ticks = 3) ∧
      ((ticking .unlocked 2 7998 0).monitor.ticks < 3 ∧ (ticking .unlocked 2 7998 0).monitor.windowTicks + 1 < 8000) ∧
      (ticking .locked 2 7999 2).monitor.windowTicks = 7999 := by decide

/-- Works whose channel 19 waits with a frame. -/
def waiting (p : Priority) (pointer : Nat) : Works :=
  { doneWorks.modChan 19 fun _ =>
      { dictating .recording with
        capture := [⟨[], .standard, false, 1, false⟩], settings := { Settings.defaults with priority := p } } with
    pointer := pointer }

theorem witness_GrantGoesByPriorityAndRotation :
    let w : WaitFrame := ⟨[], .standard, false, 1, false⟩
    let d : Channel := { dictating .reviewing with playPoint := some 4, prepPoint := some 4 }
    let t : Channel := { playing .playing with prepPoint := some 11, outX := .sending [] }
    (∀ p, (waiting p 0).chans.length = 20 ∧ (waiting p 0).pointer < 20 ∧ (waiting p 0).job = none) ∧
      (waiting .urgent 0).asks 19 = true ∧ ((waiting .urgent 0).chan 19).settings.priority = .urgent ∧
      (∀ d, d < 19 → (waiting .urgent 0).asks d = false) ∧ (waiting .normal 0).asks ((0 + 19) % 20) = true ∧
      (∀ j, j < 19 → (waiting .normal 0).asks ((0 + j) % 20) = false) ∧ (∀ c, c < 20 → doneWorks.asks c = false) ∧
      ({ doneWorks with job := some (.encode 0 0 0 .standard 0#16) }).job ≠ none ∧
      (19 < (waiting .normal 0).chans.length ∧ ((waiting .normal 0).chan 19).state = .recording ∧
        ((waiting .normal 0).chan 19).capture = [] ++ w :: [] ∧ w.inService = false ∧
        ((waiting .normal 0).chan 19).letter = some 31) ∧
      (d.outX = .empty ∧ d.state = .reviewing ∧ d.letter = some 31 ∧ d.playPoint = some 4 ∧ d.prepPoint = some 4 ∧
        d.stopPoint = some 6 ∧ 4 < 6 ∧ 4 ≤ 4 + 1 ∧ attached.entryAt 4 = some ⟨1, .speech (some 5)⟩) ∧
      (t.outX ≠ .empty ∧ t.outY = .empty ∧ t.state = .playing ∧ t.playPoint = some 11 ∧ t.prepPoint = some 11 ∧
        t.expected = some 12 ∧ recordAt t.feed 11 = some ⟨2, 11, .speech 3⟩ ∧ 11 < 12 ∧
        outputsBefore t.feed t.settings.trim 11 11 ≤ 1) ∧
      ((holding { dictating .draining with capture := [w] } attached).asks 19 = true ∧
        attached.edit = [] ++ ⟨1, .speech (some 5)⟩ :: [⟨2, .run .pause 3⟩] ∧ 4 = attached.sealB + spanOf [] ∧
        (holding d attached).asks 19 = true ∧ (holding { d with playPoint := some 2 } attached).asks 19 = false) ∧
      ((doneWorks.modChan 19 fun _ => t).asks 19 = true ∧ (doneWorks.modChan 19 fun _ => { t with state := .starved }).asks 19 = true ∧
        (playing .playing).prepPoint = none ∧ (playing .stopped).state = .stopped) :=
  ⟨fun _ => ⟨rfl, Nat.zero_lt_succ 19, rfl⟩, by decide +kernel⟩

/-- Works with an ENCODE job of channel 19 in service. -/
def encoding : Works :=
  { doneWorks.modChan 19 fun _ =>
      { dictating .recording with capture := [⟨ordinary, .standard, false, 1, true⟩] } with
    job := some (.encode 19 31 1 .standard 0#16) }

theorem witness_EncodeCompletionCodesTheEntry :
    encoding.job = some (.encode 19 31 1 .standard 0#16) ∧
      (encoding.chan 19).capture.find? WaitFrame.inService = some ⟨ordinary, .standard, false, 1, true⟩ ∧
      encoding.freePool = 0 :: [1, 8191] ∧ { encoding with freePool := [] }.freePool = [] ∧
      ((dictation .draining).chan 19).state = .draining ∧ ((dictation .draining).chan 19).capture = [] ∧
      (encoding.chan 19).state ≠ .draining ∧ (encoding.chan 19).capture ≠ [] := by decide +kernel

/-- Works with a DECODE job of channel 19 in service, for the letter's first entry. -/
def decoding (generation : BitVec 16) : Works :=
  { dictation .reviewing with job := some (.decode 19 (.letter 31) 1 .x generation) }

theorem witness_DecodeCompletionFillsItsBuffer :
    (decoding 1#16).job = some (.decode 19 (.letter 31) 1 .x 1#16) ∧ 1#16 ≠ ((decoding 1#16).chan 19).generation ∧
      0#16 = ((decoding 0#16).chan 19).generation ∧ (decoding 0#16).jobSlot 19 (.letter 31) 1 = some 5 ∧
      (decoding 0#16).jobSlot 19 (.letter 31) 2 = none ∧
      oneSlot.read [] 5 = .ok (some ([0x10#8, 0x01#8, 0x00#8] ++ List.replicate 81 0#8)) ∧
      oneSlot.read [⟨5, 41, 1#17⟩] 5 = .ok none ∧ oneSlot.read [] 8192 = .error (.noSuchSlot 8192) ∧
      { Channel.initial with outX := .awaiting 4 }.outX = .awaiting 4 ∧
      { Channel.initial with outY := .awaiting 4 }.outY = .awaiting 4 ∧
      (∀ p, Channel.initial.outX ≠ .awaiting p) ∧ (∀ p, Channel.initial.outY ≠ .awaiting p) := by
  refine ⟨by decide +kernel, by decide +kernel, by decide +kernel, by decide +kernel, by decide +kernel,
    by decide +kernel, by decide +kernel, by decide +kernel, rfl, rfl, (fun p h => by cases h), (fun p h => by cases h)⟩

theorem witness_RetirementListsOrCounts :
    doneWorks.startup = .done ∧ doneWorks.defects.length < 64 ∧
      64 ≤ { doneWorks with defects := List.replicate 64 ⟨0, .runtime⟩ }.defects.length := by decide

/-- Works with channel 19 recording and its detector as given. -/
def detecting (d : Detector) : Works := doneWorks.modChan 19 fun _ => { dictating .recording with det := d }

theorem witness_DetectorDecidesEveryFrame :
    ((detecting Detector.start).chan 19).det.phase = .speech ∧
      ((detecting { Detector.start with phase := .pause }).chan 19).det.phase = .pause ∧
      decide ((([600#16] : Frame).map fun x => x.toInt.natAbs).foldl max 0 < 600) = false ∧
      decide ((([0xFDA9#16] : Frame).map fun x => x.toInt.natAbs).foldl max 0 < 600) = true ∧
      14 < ((detecting { Detector.start with quiet := 14 }).chan 19).settings.hangover ∧
      ((detecting { Detector.start with quiet := 15 }).chan 19).settings.hangover ≤ 15 ∧
      ({ Detector.start with phase := .pause }).loud + 1 < 3 ∧
      ((detecting { Detector.start with phase := .pause }).chan 19).settings.onset ≤ 0 + 1 := by decide +kernel

theorem witness_SpeechFrameIsKeptOrDropped :
    let k := dictation .recording
    k.startup = .done ∧ 19 < k.chans.length ∧ 31 < k.letters.length ∧ (k.chan 19).letter = some 31 ∧
      (k.chan 19).recMode = some .insert ∧ (k.chan 19).capture.length < 2 ∧ (k.letter 31).length + 1 < 16777215 ∧
      (planEntry .insert (k.letter 31) 6 ⟨0, .speech none⟩ 1).need = 2 ∧ 2 ≤ k.freeEntries ∧
      ((planEntry .insert nearlyFull 16777212 ⟨0, .speech none⟩ 1).longer = true ∧ nearlyFull.length + 1 = 16777215 ∧
        (planEntry .insert nearlyFull 16777212 ⟨0, .speech none⟩ 1).need = 2) ∧
      16777215 ≤ { nearlyFull with sealB := 16777211, cursor := 16777213, length := 16777215 }.length ∧
      (planEntry .overwrite (k.letter 31) 6 ⟨0, .speech none⟩ 1).longer = false ∧
      { k with freeEntries := 1 }.freeEntries < 2 ∧
      2 ≤ { dictating .recording with capture := List.replicate 2 ⟨[], .standard, false, 1, false⟩ }.capture.length ∧
      { dictating .ready with recMode := none }.letter = some 31 ∧ { dictating .ready with recMode := none }.recMode = none := by
  decide +kernel

theorem witness_RunsGrowToTheSqueezeCount :
    let k := detecting { Detector.start with growing := some 2 }
    let n := dictation .recording
    (k.chan 19).det.growing = some 2 ∧ (k.chan 19).recMode = some .insert ∧
      (attached.edit.find? fun e => decide (e.id = 2)) = some ⟨2, .run .pause 3⟩ ∧
      (∀ m ∈ attached.marks, m.pos ≠ attached.cursor) ∧ 3 < (k.chan 19).settings.squeeze ∧
      { Settings.defaults with squeeze := 5 }.squeeze ≤ 5 ∧ attached.length + 1 < 16777215 ∧
      (n.startup = .done ∧ (n.chan 19).letter = some 31 ∧ (n.chan 19).det.growing = none ∧
        (planEntry .insert (n.letter 31) 6 ⟨0, .run .pause 1⟩ 1).need = 2 ∧ 2 ≤ n.freeEntries ∧
        { n with freeEntries := 1 }.freeEntries < 2) ∧
      (let full : Letter := { nearlyFull with sealB := 16777211, cursor := 16777213, length := 16777215 }
       (planGrowth .insert nearlyFull 16777212 2).longer = true ∧ nearlyFull.length + 1 = 16777215 ∧
        (nearlyFull.edit.find? fun e => decide (e.id = 2)) = some ⟨2, .run .pause 3⟩ ∧ nearlyFull.marks = [] ∧
        k.startup = .done ∧ (planGrowth .insert full 16777213 2).longer = true ∧ 16777215 ≤ full.length ∧
        (planEntry .insert nearlyFull 16777212 ⟨0, .run .lost 1⟩ 1).longer = true ∧
        (planEntry .insert nearlyFull 16777212 ⟨0, .run .lost 1⟩ 1).need ≤ n.freeEntries ∧
        (planEntry .insert full 16777213 ⟨0, .run .lost 1⟩ 1).longer = true) ∧
      { dictating .ready with recMode := none }.recMode = none ∧
      (∃ m ∈ { attached with cursor := 8 }.marks, m.pos = 8) := by
  refine ⟨by decide +kernel, by decide +kernel, by decide +kernel, by decide +kernel, by decide +kernel, by decide +kernel,
    by decide +kernel, by decide +kernel, by decide +kernel, rfl, _, List.mem_singleton.2 rfl, rfl⟩

theorem witness_ReviewSendsRunOrStalls :
    (dictation .reviewing).startup = .done ∧
      { dictating .reviewing with outX := .filled 5 [] }.outX = .filled 5 [] ∧
      { dictating .reviewing with outY := .filled 5 [] }.outY = .filled 5 [] ∧
      ((dictation .reviewing).chan 19).outX = .empty ∧ ((dictation .reviewing).chan 19).outY = .empty ∧
      ((dictation .reviewing).letter 31).entryAt 7 = some ⟨2, .run .pause 3⟩ ∧
      ((dictation .reviewing).letter 31).entryAt 4 = some ⟨1, .speech (some 5)⟩ ∧
      (let k := dictation .reviewing
       19 < k.chans.length ∧ (k.chan 19).state = .reviewing ∧ (k.chan 19).letter = some 31 ∧
        (k.chan 19).playPoint = some 5 ∧ (k.chan 19).stopPoint = some 6 ∧
        ((k.reviewPosition 19 31 5).chan 19).playPoint = some 6 ∧
        ((k.reviewPosition 19 31 4).chan 19).playPoint ≠ some 6) := by decide +kernel

theorem witness_PlaybackMeetsMarksAndEnds :
    let q := (playing .playing).feed
    let k := transcription .playing
    (k.startup = .done ∧ 19 < k.chans.length ∧
      (∀ r ∈ q, ¬(r.pos ≤ 12 ∧ 12 < r.stop) ∧ ¬(r.isEnd = true ∧ r.pos = 12)) ∧ (playing .playing).filledSide 12 = none ∧
      { playing .playing with playPoint := some 12 }.playPoint = some 12 ∧
      (∃ r ∈ [(⟨4, 16777215, .endOf⟩ : FeedRec)], r.body = .endOf ∧ r.pos = 16777215) ∧
      armedAt q 12 = [] ++ [(.sectionMark, 9#16)] ∧
      (∃ m ∈ ([] ++ [(.instructionMark, 0#16)] : List (MarkKind × BitVec 16)), m.1 = MarkKind.instructionMark) ∧
      ∀ r ∈ q, ∀ kind label, r.body = .mark kind label true → r.pos ≠ 11) ∧
    ((∀ r ∈ q, ¬(r.isEnd = true ∧ r.pos = 11)) ∧ { playing .playing with outX := .filled 11 [] }.outX = .filled 11 [] ∧
      { playing .playing with outY := .filled 11 [] }.outY = .filled 11 [] ∧ (playing .playing).outX = .empty ∧
      (playing .playing).outY = .empty ∧ q = [⟨1, 10, .pause 1⟩] ++ ⟨2, 11, .speech 3⟩ :: [⟨3, 12, .mark .sectionMark 9#16 true⟩] ∧
      (∀ f ∈ [(⟨1, 10, .pause 1⟩ : FeedRec)], ¬(f.pos ≤ 11 ∧ 11 < f.stop)) ∧ 11 < (⟨2, 11, .speech 3⟩ : FeedRec).stop ∧
      10 < (⟨1, 10, .pause 1⟩ : FeedRec).stop) ∧
    ((k.chan 19).state = .playing ∧ (k.chan 19).playPoint = some 11 ∧ (k.chan 19).expected = some 12) ∧
    (let starved := transcription .starved
     let ch := (starved.loadAtBoundary 19).chan 19
     (starved.chan 19).state = .starved ∧ (∃ r ∈ ch.feed, (r.pos ≤ 11 ∧ 11 < r.stop) ∨ (r.stop = r.pos ∧ r.pos = 11)) ∧
      (∃ r ∈ ch.feed, (r.pos ≤ 12 ∧ 12 < r.stop) ∨ (r.stop = r.pos ∧ r.pos = 12)) ∧
      (¬∃ r ∈ ch.feed, (r.pos ≤ 13 ∧ 13 < r.stop) ∨ (r.stop = r.pos ∧ r.pos = 13)) ∧
      ((transcription .stopped).chan 19).state = .stopped ∧ ((transcription .ended).chan 19).state = .ended ∧
      { playing .playing with expected := none, playPoint := none, feed := [] }.playPoint = none) ∧
    (let ch : Channel := { playing .playing with settings := { Settings.defaults with backspace := 0 } }
     ch.feed = [⟨1, 10, .pause 1⟩] ++ [⟨2, 11, .speech 3⟩, ⟨3, 12, .mark .sectionMark 9#16 true⟩] ∧
      (⟨1, 10, .pause 1⟩ : FeedRec).stop ≤ 11 - ch.settings.backspace ∧
      ¬((⟨2, 11, .speech 3⟩ : FeedRec).stop ≤ 11 - ch.settings.backspace)) := by
  refine ⟨⟨rfl, by decide +kernel, by decide +kernel, by decide +kernel, rfl, ?_, by decide +kernel, ?_, ?_⟩,
    by decide +kernel⟩
  · exact ⟨_, List.mem_singleton.2 rfl, rfl, rfl⟩
  · exact ⟨_, List.mem_singleton.2 rfl, rfl⟩
  · intro r hr kind label hb
    simp only [playing, List.mem_cons, List.not_mem_nil, or_false] at hr
    rcases hr with rfl | rfl | rfl <;> cases hb
    decide

theorem witness_ExponentIsTheSmallestThatReaches :
    (65535 : Nat) ≤ 65535 ∧ ∀ x ∈ ([7#16, 7#16] : Frame), x = 7#16 := ⟨Nat.le_refl _, by simp⟩

theorem witness_EncoderStaysWithinHalfAStep :
    ordinary[5]? = some 520#16 ∧ (encodeSteps .standard 0#16 ordinary)[5]?.isSome = true ∧
      1 ≤ frameExponent .standard 0#16 ordinary ∧ frameExponent .standard 0#16 [7#16] = 0 := by decide +kernel

theorem witness_DecodingGivesTheReconstructions : ordinary ≠ [] := by decide

theorem witness_FrameRecordSurvivesItsBytes :
    (15 < 16 ∧ (List.replicate 160 (-8 : Int)).length = 160 ∧
      ∀ q ∈ List.replicate 160 (-8 : Int), Width.standard.qmin ≤ q ∧ q ≤ Width.standard.qmax) ∧
      (List.replicate 160 0#16 : Frame).length = 160 := by
  refine ⟨⟨by decide, by simp, fun q hq => ?_⟩, by simp⟩
  rw [(List.mem_replicate.1 hq).2]
  decide

theorem witness_SlotsReturnWhatWasWritten :
    (List.replicate 84 0#8).length ≤ 84 ∧ 8191 < 8192 ∧ ∀ w ∈ [withParity 0#16, withParity 0xFFFF#16], oddOnes w = true := by
  refine ⟨by simp, by decide, fun w hw => ?_⟩
  simp only [List.mem_cons, List.not_mem_nil, or_false] at hw
  rcases hw with rfl | rfl <;> decide

theorem witness_StartUpRefusesTheOtherRequests :
    (asking (Works.start [] 0) (request 0x36#8 0#8 [])).AtFront (request 0x36#8 0#8 []) [] ∧
      (Works.start [] 0).startup ≠ .done := ⟨⟨rfl, rfl, rfl⟩, by decide⟩

theorem witness_RefusalsChangeNothing :
    let m := request 0x21#8 0xFF#8 []
    let s := asking doneWorks m
    s.AtFront m [] ∧ exec .reqStop s = .next (s.answered m [] ⟨.badTarget, []⟩ s.works) := by
  refine ⟨⟨rfl, rfl, rfl⟩, ?_⟩
  simp only [exec, execReqStop]
  rw [State.carryOut_works (kind := 0x21#8) (rest := []) (m := request 0x21#8 0xFF#8 []) ⟨rfl, rfl, rfl⟩ rfl]
  rfl

theorem witness_RaisedFlagsStandInPollOrder :
    pendingWorks.events.Pairwise fun f g => f.key < g.key := by decide

theorem witness_StoreKeepsItsForm : oneSlot.wf = true ∧ (Store.blank.writePattern [8191]).wf = true :=
  ⟨Store.wf_write Store.wf_blank 5 _, Store.wf_writePattern Store.wf_blank _⟩

theorem witness_PortsStayInOrder :
    (State.reset.line.Exclusive ∧ State.reset.link.CountsFit ∧ State.reset.line.CounterFits ∧ State.reset.monitor.Sound) ∧
      (receiving (.collecting 1027 [] false)).link.QueuesFit ∧ (dictation .recording).TablesFit := by
  refine ⟨⟨start_exclusive, ⟨by decide, by decide, by decide⟩, by unfold Line.CounterFits; decide,
    by unfold Monitor.Sound; decide⟩, ⟨by decide, by decide, ?_⟩, by unfold Works.TablesFit; decide +kernel⟩
  intro left got ovr h
  simp only [receiving, Receiver.collecting.injEq] at h
  omega

theorem witness_EventsStayInOrder : pendingWorks.EventsOrdered ∧ pendingWorks.QuietWhileStarting :=
  ⟨witness_RaisedFlagsStandInPollOrder, fun h => absurd rfl h⟩

/-- A part whose scan is DONE with every slot free. -/
def allFree : Works := { Works.start [] 0 with startup := .done, freePool := List.range 8192 }

/-- A DONE part, letter 31 attached to channel 19 with one CODED entry in slot 5, a growing run, and a mark. -/
def oneLetter : Works :=
  { allFree with
    freePool := (List.range 8192).filter fun n => decide (n ≠ 5), freeEntries := 12286, nextEntry := 3,
    chans := allFree.chans.set 19 { dictating .recording with det := { Detector.start with growing := some 2 } },
    letters := allFree.letters.set 31 { attached with cursor := 8 } }

/-- The channels and letters of it, one by one. -/
theorem oneLetter_parts :
    (∀ ch ∈ oneLetter.chans, ch = Channel.initial ∨ ch = oneLetter.chan 19) ∧
      (∀ l ∈ oneLetter.letters, l = Letter.freeRecord ∨ l = oneLetter.letter 31) ∧
      (∀ c, c < 20 → c ≠ 19 → oneLetter.chan c = Channel.initial) ∧
      (∀ i, i < 32 → i ≠ 31 → oneLetter.letter i = Letter.freeRecord) := by decide +kernel

theorem witness_EntriesAddUpAtEveryStep : oneLetter.Accounted := by
  obtain ⟨h1, h2, h3, h4⟩ := oneLetter_parts
  refine ⟨by decide +kernel, by decide +kernel, ?_, ?_, ?_, (fun j h => by cases h), ?_⟩
  · intro ch h
    rcases h1 ch h with rfl | rfl <;> (unfold Channel.Sound; decide +kernel)
  · intro l h
    rcases h2 l h with rfl | rfl <;> (unfold Letter.Sound; decide +kernel)
  · intro c i hc
    have e1 : (oneLetter.chan 19).letter = some 31 := by decide +kernel
    have e2 : (oneLetter.letter 31).state = .attached ∧ (oneLetter.letter 31).channel = some 19 := by decide +kernel
    by_cases hc19 : c = 19
    · subst hc19
      rw [e1]
      constructor
      · intro h
        cases h
        exact ⟨by decide, e2⟩
      · rintro ⟨hi, hs, -⟩
        by_cases hi31 : i = 31
        · rw [hi31]
        · rw [h4 i hi hi31] at hs
          cases hs
    · rw [h3 c hc hc19]
      constructor
      · intro h
        cases h
      · rintro ⟨hi, hs, hch⟩
        by_cases hi31 : i = 31
        · subst hi31
          rw [e2.2] at hch
          exact absurd (Option.some.inj hch).symm hc19
        · rw [h4 i hi hi31] at hs
          cases hs
  · unfold Works.EntriesAddUp
    decide +kernel

theorem witness_LettersStayInOrder : oneLetter.LettersInOrder := by
  obtain ⟨h1, h2, -, -⟩ := oneLetter_parts
  have hj : oneLetter.job = none := rfl
  have hw : oneLetter.waitFrames = [] := by decide +kernel
  refine ⟨?_, by decide +kernel, by decide +kernel, ?_, ?_, ?_, ?_⟩
  · intro l h
    rcases h2 l h with rfl | rfl <;> (unfold Letter.InOrder; decide +kernel)
  · intro ch h
    rcases h1 ch h with rfl | rfl
    · exact ⟨⟨fun _ => rfl, fun _ _ _ _ hl => by cases hl⟩, fun hs => by cases hs⟩
    · refine ⟨⟨fun hs => absurd (by decide +kernel) hs, ?_⟩, fun hs => absurd hs (by decide +kernel)⟩
      intro i before e after hl he hg
      have e1 : (oneLetter.chan 19).letter = some 31 := by decide +kernel
      have e2 : (oneLetter.chan 19).det.growing = some 2 := by decide +kernel
      have e3 : (oneLetter.letter 31).edit = [⟨1, .speech (some 5)⟩, ⟨2, .run .pause 3⟩] := by decide +kernel
      have e4 : (oneLetter.letter 31).sealB = 4 ∧ (oneLetter.letter 31).cursor = 8 := by decide +kernel
      rw [e1] at hl
      cases hl
      rw [e2] at hg
      rw [e3] at he
      rcases before with - | ⟨x, - | ⟨y, rest⟩⟩
      · cases he
        cases hg
      · cases he
        rw [e4.1, e4.2]
        rfl
      · exact absurd he (by simp)
  · rw [hw]
    intro w h
    cases h
  · rw [hw]
    exact List.nodup_nil
  · intro c i entry width base h
    rw [hj] at h
    cases h

theorem witness_SlotsAddUpAtEveryStep : oneLetter.SlotsAddUp := by
  obtain ⟨h1, -, -, -⟩ := oneLetter_parts
  have hh : oneLetter.heldSlots = [5] := by decide +kernel
  have hp : oneLetter.placedSlots = (List.range 8192).filter (fun n => decide (n ≠ 5)) ++ [5] := by
    rw [Works.placedSlots, hh]
    simp only [oneLetter, allFree, Works.start, List.map_nil, List.append_nil]
  refine ⟨?_, ?_, ?_, fun h => absurd rfl h, List.Pairwise.nil, (fun n h => by cases h), ?_, ?_, ?_⟩
  · rw [hp]
    refine List.Nodup.append (List.nodup_range.filter _) (List.nodup_singleton 5) ?_
    intro n hn h5
    rw [List.mem_singleton.1 h5] at hn
    simp at hn
  · rw [hp]
    intro n hn
    rcases List.mem_append.1 hn with hn | hn
    · exact List.mem_range.1 (List.mem_filter.1 hn).1
    · rw [List.mem_singleton.1 hn]
      decide
  · intro _
    rw [hp]
    decide +kernel
  · exact ⟨fun _ => rfl, fun h => by cases h⟩
  · intro ch h
    rcases h1 ch h with rfl | rfl
    · exact ⟨⟨fun hc => absurd rfl hc, fun w hw => by cases hw⟩, List.nodup_nil, fun r hr => by cases hr⟩
    · have hc : (oneLetter.chan 19).capture = [] ∧ (oneLetter.chan 19).feed = [] := by decide +kernel
      refine ⟨⟨fun hn => absurd hc.1 hn, fun w hw => ?_⟩, ?_, fun r hr => ?_⟩
      · rw [hc.1] at hw
        cases hw
      · rw [hc.2]
        exact List.nodup_nil
      · rw [hc.2] at hr
        cases hr
  · intro c i entry width base h
    cases h

end Sys2Proof.Tests
end

/-! PROOFS. Frame coding (01_frame_coding.md): the exponent of R4 and the half-step bound of R8.

The rounding of R5 is read as one formula for every exponent, `(d + 2^e / 2) / 2^e`, and the error bound of R8 as one
predicate, `WithinHalfStep`. One coding step carries that predicate from a sample to the next whenever the exponent's
range reaches their difference; R4 chooses the exponent so that it reaches every difference of the frame. -/

namespace Sys2Proof.Machine

/-! ### Samples and limits (R6) -/

/-- The range of a 16-bit sample. -/
def SampleRange (v : Int) : Prop := -32768 ≤ v ∧ v ≤ 32767

theorem sampleRange_toInt (x : Sample) : SampleRange x.toInt := by
  have lower := x.le_toInt
  have upper := x.toInt_lt
  exact ⟨by omega, by omega⟩

theorem sampleRange_of_mem_toInts {f : Frame} {v : Int} (h : v ∈ toInts f) : SampleRange v := by
  obtain ⟨x, -, rfl⟩ := List.mem_map.1 h
  exact sampleRange_toInt x

theorem limit_of_mem {lo hi v : Int} (hlo : lo ≤ v) (hhi : v ≤ hi) : limit lo hi v = v := by
  rw [limit, if_neg (by omega), if_neg (by omega)]

theorem sampleRange_saturate (v : Int) : SampleRange (saturate v) := by
  unfold SampleRange saturate limit
  split
  · omega
  · split <;> omega

theorem Width.qmin_le_neg_qmax (w : Width) : w.qmin ≤ -w.qmax := by cases w <;> decide

/-- A code within -qmax..qmax passes the clamp. -/
theorem clampCode_of_mem {w : Width} {q : Int} (lower : -w.qmax ≤ q) (upper : q ≤ w.qmax) : clampCode w q = q :=
  limit_of_mem (w.qmin_le_neg_qmax.trans lower) upper

/-! ### The open-loop peak (R3) -/

theorem natAbs_sub_le_of_sampleRange {x b : Int} (hx : SampleRange x) (hb : SampleRange b) :
    (x - b).natAbs ≤ 65535 := by
  obtain ⟨hx1, hx2⟩ := hx
  obtain ⟨hb1, hb2⟩ := hb
  omega

theorem openLoopPeak_le {prev : Int} {xs : List Int} (hprev : SampleRange prev) (hxs : ∀ x ∈ xs, SampleRange x) :
    openLoopPeak prev xs ≤ 65535 := by
  induction xs generalizing prev with
  | nil => simp [openLoopPeak]
  | cons x rest ih =>
    have hx := hxs x List.mem_cons_self
    exact max_le (natAbs_sub_le_of_sampleRange hx hprev) (ih hx fun y hy => hxs y (List.mem_cons_of_mem x hy))

theorem openLoopPeak_frame_le (base : Sample) (f : Frame) : openLoopPeak base.toInt (toInts f) ≤ 65535 :=
  openLoopPeak_le (sampleRange_toInt base) fun _ => sampleRange_of_mem_toInts

theorem openLoopPeak_eq_zero_of_constant {b : Int} {xs : List Int} (h : ∀ x ∈ xs, x = b) :
    openLoopPeak b xs = 0 := by
  induction xs with
  | nil => rfl
  | cons x rest ih =>
    obtain rfl : x = b := h x List.mem_cons_self
    simp [openLoopPeak, ih fun y hy => h y (List.mem_cons_of_mem x hy)]

/-- The peak bounds the difference of each sample from the one before it. -/
theorem natAbs_sub_le_openLoopPeak {prev x b : Int} {xs : List Int} {n : Nat}
    (hb : (prev :: xs)[n]? = some b) (hx : xs[n]? = some x) : (x - b).natAbs ≤ openLoopPeak prev xs := by
  induction xs generalizing prev n with
  | nil => simp at hx
  | cons y rest ih =>
    cases n with
    | zero =>
      obtain rfl : prev = b := by simpa using hb
      obtain rfl : y = x := by simpa using hx
      exact le_max_left _ _
    | succ m => exact (ih (by simpa using hb) (by simpa using hx)).trans (le_max_right _ _)

/-! ### The exponent (R4) -/

theorem exponentFits_iff (w : Width) (peak e : Nat) :
    exponentFits w peak e = true ↔ (peak : Int) ≤ w.qmax * 2 ^ e := by
  simp [exponentFits]

/-- Both widths reach every peak at exponent 15. -/
theorem exponentFits_fifteen (w : Width) {peak : Nat} (h : peak ≤ 65535) : exponentFits w peak 15 = true := by
  rw [exponentFits_iff]
  cases w <;> simp only [Width.qmax] <;> omega

/-- The exponent of a peak that samples can have: it reaches the peak, and no smaller one does. -/
theorem exponentOf_spec (w : Width) {peak : Nat} (h : peak ≤ 65535) :
    exponentOf w peak ≤ 15 ∧ (peak : Int) ≤ w.qmax * 2 ^ exponentOf w peak ∧
      ∀ j, j < exponentOf w peak → w.qmax * 2 ^ j < (peak : Int) := by
  have exists_fit : ((List.range 16).find? (exponentFits w peak)).isSome := by
    rw [List.find?_isSome]
    exact ⟨15, by simp, exponentFits_fifteen w h⟩
  obtain ⟨e, found⟩ := Option.isSome_iff_exists.1 exists_fit
  have chosen : exponentOf w peak = e := by rw [exponentOf, found, Option.getD_some]
  obtain ⟨fits, small, smaller⟩ := List.find?_range_eq_some.1 found
  rw [chosen]
  refine ⟨Nat.le_of_lt_succ (List.mem_range.1 small), (exponentFits_iff w peak e).1 fits, fun j hj => ?_⟩
  have misses := smaller j hj
  rw [Bool.not_eq_true', ← Bool.not_eq_true, exponentFits_iff] at misses
  exact not_le.1 misses

theorem exponentOf_zero (w : Width) : exponentOf w 0 = 0 := by cases w <;> decide

theorem frameExponent_of_constant (w : Width) {base : Sample} {f : Frame} (h : ∀ x ∈ f, x = base) :
    frameExponent w base f = 0 := by
  have flat : openLoopPeak base.toInt (toInts f) = 0 := openLoopPeak_eq_zero_of_constant fun v hv => by
    obtain ⟨x, hx, rfl⟩ := List.mem_map.1 hv
    rw [h x hx]
  rw [frameExponent, flat, exponentOf_zero]

/-- The frame's exponent reaches its open-loop peak. -/
theorem openLoopPeak_le_frameExponent (w : Width) (base : Sample) (f : Frame) :
    (openLoopPeak base.toInt (toInts f) : Int) ≤ w.qmax * 2 ^ frameExponent w base f :=
  (exponentOf_spec w (openLoopPeak_frame_le base f)).2.1

/-- Settles O46: the search of R4 finds the least exponent that fits, and exponent 15 always does. -/
theorem exponentIsTheSmallestThatReaches : Obligations.ExponentIsTheSmallestThatReaches := by
  refine ⟨fun w peak h => ?_, fun w base f => ⟨openLoopPeak_frame_le base f, frameExponent_of_constant w⟩⟩
  obtain ⟨small, reaches, least⟩ := exponentOf_spec w h
  exact ⟨small, reaches, least, fun hp => hp ▸ exponentOf_zero w⟩

/-! ### One coding step (R5, R6, R8) -/

/-- The error bound of R8 at exponent `e`: the error `x - r` lies in `-h..h-1` for a half step `h` of at least 1, and is
zero at `e = 0`, where the half step rounds down to 0. -/
def WithinHalfStep (e : Nat) (x r : Int) : Prop := -(2 ^ e / 2) ≤ x - r ∧ x - r < 2 ^ e - 2 ^ e / 2

theorem half_two_pow {e : Nat} (h : 1 ≤ e) : (2 : Int) ^ e / 2 = 2 ^ (e - 1) := by
  obtain ⟨m, rfl⟩ := Nat.exists_eq_add_of_le' h
  rw [pow_succ, Nat.add_sub_cancel, Int.mul_ediv_cancel _ (by decide)]

theorem withinHalfStep_refl (e : Nat) (x : Int) : WithinHalfStep e x x := by
  have step_pos : (0 : Int) < 2 ^ e := by positivity
  unfold WithinHalfStep
  omega

theorem WithinHalfStep.eq_of_exponent_zero {e : Nat} {x r : Int} (h : WithinHalfStep e x r) (he : e = 0) : r = x := by
  subst he
  unfold WithinHalfStep at h
  omega

theorem withinHalfStep_iff {e : Nat} (h : 1 ≤ e) (x r : Int) :
    WithinHalfStep e x r ↔ -(2 ^ (e - 1) : Int) ≤ x - r ∧ x - r ≤ 2 ^ (e - 1) - 1 := by
  have half := half_two_pow h
  have whole : (2 : Int) ^ e = 2 * 2 ^ (e - 1) := by rw [← pow_succ', Nat.sub_add_cancel h]
  unfold WithinHalfStep
  omega

theorem unroundedCode_of_exponent_zero {e : Nat} (he : e = 0) (d : Int) : unroundedCode e d = d := if_pos he

/-- The rounding of R5 as one formula for all exponents. -/
theorem unroundedCode_eq (e : Nat) (d : Int) : unroundedCode e d = (d + 2 ^ e / 2) / 2 ^ e := by
  rcases Nat.eq_zero_or_pos e with rfl | h
  · simp [unroundedCode]
  · rw [unroundedCode, if_neg (by omega), half_two_pow h]

/-- Saturation brings the reconstruction of a sample no further from it (R6, R8). -/
theorem WithinHalfStep.saturate {e : Nat} {x v : Int} (hx : SampleRange x) (h : WithinHalfStep e x v) :
    WithinHalfStep e x (saturate v) := by
  have step_pos : (0 : Int) < 2 ^ e := by positivity
  obtain ⟨x_lower, x_upper⟩ := hx
  obtain ⟨lower, upper⟩ := h
  unfold WithinHalfStep Machine.saturate limit
  split
  · omega
  · split <;> omega

/-- Rounding a difference to whole steps leaves an error within half a step. -/
theorem withinHalfStep_unroundedCode (e : Nat) (x p : Int) :
    WithinHalfStep e x (p + unroundedCode e (x - p) * 2 ^ e) := by
  have step_pos : (0 : Int) < 2 ^ e := by positivity
  have lower := Int.ediv_mul_le (x - p + 2 ^ e / 2) step_pos.ne'
  have upper := Int.lt_ediv_add_one_mul_self (x - p + 2 ^ e / 2) step_pos
  rw [← unroundedCode_eq] at lower upper
  rw [add_one_mul] at upper
  unfold WithinHalfStep
  omega

/-- Where the exponent reaches the open-loop difference and the prediction is within half a step of the sample before,
the code needs no clamp: the half step of the prediction's error is the one that rounding takes back. -/
theorem unroundedCode_mem {w : Width} {e : Nat} {x b p : Int} (reach : ((x - b).natAbs : Int) ≤ w.qmax * 2 ^ e)
    (hp : WithinHalfStep e b p) : -w.qmax ≤ unroundedCode e (x - p) ∧ unroundedCode e (x - p) ≤ w.qmax := by
  have step_pos : (0 : Int) < 2 ^ e := by positivity
  obtain ⟨lower, upper⟩ := hp
  rw [unroundedCode_eq]
  constructor
  · rw [Int.le_ediv_iff_mul_le step_pos, neg_mul]
    omega
  · rw [← Int.lt_add_one_iff, Int.ediv_lt_iff_lt_mul step_pos, add_one_mul]
    omega

theorem withinHalfStep_reconstruct (e : Nat) {x : Int} (hx : SampleRange x) (p : Int) :
    WithinHalfStep e x (reconstruct e p (unroundedCode e (x - p))) :=
  (withinHalfStep_unroundedCode e x p).saturate hx

/-! ### The closed loop (R5, R6) -/

@[simp] theorem length_closedLoop (w : Width) (e : Nat) (p : Int) (xs : List Int) :
    (closedLoop w e p xs).length = xs.length := by
  induction xs generalizing p with
  | nil => rfl
  | cons x rest ih => simp [closedLoop, ih]

/-- The predictions of the loop: the first `p`, then each reconstruction. -/
def predictions (w : Width) (e : Nat) (p : Int) (xs : List Int) : List Int :=
  p :: (closedLoop w e p xs).map Prod.snd

/-- Step `n` of the loop codes sample `n` from prediction `n`. -/
theorem getElem?_closedLoop {w : Width} {e n : Nat} {p x q r : Int} {xs : List Int} (hx : xs[n]? = some x)
    (hn : (closedLoop w e p xs)[n]? = some (q, r)) :
    ∃ pred, (predictions w e p xs)[n]? = some pred ∧ q = clampCode w (unroundedCode e (x - pred)) ∧
      r = reconstruct e pred q := by
  induction xs generalizing p n with
  | nil => simp at hx
  | cons y rest ih =>
    cases n with
    | zero =>
      obtain rfl : y = x := by simpa using hx
      simp only [closedLoop, List.getElem?_cons_zero, Option.some.injEq, Prod.mk.injEq] at hn
      obtain ⟨rfl, rfl⟩ := hn
      exact ⟨p, rfl, rfl, rfl⟩
    | succ m =>
      simp only [closedLoop, List.getElem?_cons_succ] at hx hn
      exact ih hx hn

/-- The loop from `prev` on the samples `xs` with an exponent whose range reaches their open-loop peak. -/
structure Reaches (w : Width) (e : Nat) (prev : Int) (xs : List Int) : Prop where
  peak : (openLoopPeak prev xs : Int) ≤ w.qmax * 2 ^ e
  samples : ∀ x ∈ xs, SampleRange x

/-- One step of such a loop: from a prediction within half a step of the sample before, the code needs no clamp and the
reconstruction is again within half a step. -/
theorem Reaches.step {w : Width} {e n : Nat} {prev b x pred : Int} {xs : List Int} (h : Reaches w e prev xs)
    (hb : (prev :: xs)[n]? = some b) (hx : xs[n]? = some x) (hp : WithinHalfStep e b pred) :
    -w.qmax ≤ unroundedCode e (x - pred) ∧ unroundedCode e (x - pred) ≤ w.qmax ∧
      clampCode w (unroundedCode e (x - pred)) = unroundedCode e (x - pred) ∧
      WithinHalfStep e x (reconstruct e pred (unroundedCode e (x - pred))) := by
  have difference : ((x - b).natAbs : Int) ≤ w.qmax * 2 ^ e :=
    (Int.ofNat_le.2 (natAbs_sub_le_openLoopPeak hb hx)).trans h.peak
  obtain ⟨lower, upper⟩ := unroundedCode_mem difference hp
  exact ⟨lower, upper, clampCode_of_mem lower upper,
    withinHalfStep_reconstruct e (h.samples x (List.mem_of_getElem? hx)) pred⟩

/-- Every prediction of such a loop is within half a step of the sample before it. -/
theorem Reaches.withinHalfStep_predictions {w : Width} {e n : Nat} {prev b pred : Int} {xs : List Int}
    (h : Reaches w e prev xs) (hb : (prev :: xs)[n]? = some b) (hp : (predictions w e prev xs)[n]? = some pred) :
    WithinHalfStep e b pred := by
  induction n generalizing b pred with
  | zero =>
    obtain rfl : prev = b := by simpa using hb
    obtain rfl : prev = pred := by simpa [predictions] using hp
    exact withinHalfStep_refl e prev
  | succ m ih =>
    have hx : xs[m]? = some b := by simpa using hb
    obtain ⟨q, hn⟩ : ∃ q, (closedLoop w e prev xs)[m]? = some (q, pred) := by simpa [predictions] using hp
    obtain ⟨pred', hpred', rfl, rfl⟩ := getElem?_closedLoop hx hn
    obtain ⟨b', hb'⟩ : ∃ b', (prev :: xs)[m]? = some b' := by
      have inside := (List.getElem?_eq_some_iff.1 hb).1
      exact ⟨_, List.getElem?_eq_getElem (by omega)⟩
    obtain ⟨-, -, unclamped, near⟩ := h.step hb' hx (ih hb' hpred')
    rwa [unclamped]

theorem reaches_frameExponent (w : Width) (base : Sample) (f : Frame) :
    Reaches w (frameExponent w base f) base.toInt (toInts f) :=
  ⟨openLoopPeak_le_frameExponent w base f, fun _ => sampleRange_of_mem_toInts⟩

/-- The sample before sample `n`, as R3 and R8 count it, the base standing before the first. -/
theorem getElem?_base_cons_toInts {base x : Sample} {f : Frame} {n : Nat} (hx : f[n]? = some x) :
    (base.toInt :: toInts f)[n]? = some (if n = 0 then base.toInt else ((f[n - 1]?).getD 0).toInt) := by
  cases n with
  | zero => rfl
  | succ m =>
    have inside := (List.getElem?_eq_some_iff.1 hx).1
    simp [toInts, List.getElem?_eq_getElem (show m < f.length by omega)]

theorem predictions_getElem?_eq {w : Width} {e n : Nat} {p pred : Int} {xs : List Int}
    (h : (predictions w e p xs)[n]? = some pred) :
    (if n = 0 then p else (((closedLoop w e p xs)[n - 1]?).map Prod.snd).getD 0) = pred := by
  cases n with
  | zero => simpa [predictions] using h
  | succ m =>
    rw [predictions, List.getElem?_cons_succ, List.getElem?_map] at h
    simp [h]

/-- Settles O47: by induction along the loop every prediction is within half a step of the sample before it, so that no
code meets the clamp and every reconstruction is within half a step of its sample. -/
theorem encoderStaysWithinHalfAStep : Obligations.EncoderStaysWithinHalfAStep := by
  intro w base f e steps
  refine ⟨by simp [steps, encodeSteps, toInts], ?_⟩
  intro n x q r hx hn before predicted
  have reaches : Reaches w e base.toInt (toInts f) := reaches_frameExponent w base f
  have hx' : (toInts f)[n]? = some x.toInt := by simp [toInts, hx]
  have hbefore : (base.toInt :: toInts f)[n]? = some before := getElem?_base_cons_toInts hx
  obtain ⟨pred, hpred, rfl, rfl⟩ := getElem?_closedLoop hx' hn
  obtain rfl : predicted = pred := predictions_getElem?_eq hpred
  have near_before : WithinHalfStep e before predicted := reaches.withinHalfStep_predictions hbefore hpred
  obtain ⟨lower, upper, unclamped, near⟩ := reaches.step hbefore hx' near_before
  rw [unclamped]
  obtain ⟨r_lower, r_upper⟩ := sampleRange_saturate (predicted + unroundedCode e (x.toInt - predicted) * 2 ^ e)
  refine ⟨upper, lower, rfl, r_lower, r_upper, fun he => ?_, fun he => (withinHalfStep_iff he _ _).1 near⟩
  have exact_before : predicted = before := near_before.eq_of_exponent_zero he
  exact ⟨near.eq_of_exponent_zero he, (unroundedCode_of_exponent_zero he _).trans (by rw [exact_before])⟩

end Sys2Proof.Machine

/-! PROOFS. The memory scan (07_frame_memory.md): how LOADING ends.

A command of the scan has its effect only in its own state of a part that is not held (`State.scanIn`); what LOADING_END
then writes is read off its one branch. -/

namespace Sys2Proof.Machine

/-! ### When a command of the scan has its effect (R122, R191) -/

theorem State.scanIn_iff (s : State) (st : Startup) :
    s.scanIn st = true ↔ s.resetAsserted = false ∧ s.works.startup = st := by
  simp [State.scanIn]

/-! ### The end of LOADING (R123) -/

theorem exec_loadingEnd (s : State) : exec .loadingEnd s = execLoadingEnd s := rfl

theorem execLoadingEnd_of_scanIn {s : State} (h : s.scanIn .loading = true) :
    execLoadingEnd s =
      .next { s with works := { s.works with startup := .writing, defects := factoryDefects s.works.factory } } :=
  if_pos h

/-- Settles O5: a part in LOADING that is not held takes the one branch in which LOADING_END has an effect. -/
theorem loadingEndListsTheFactorySlots : Obligations.LoadingEndListsTheFactorySlots := by
  intro s free loading
  have inLoading : s.scanIn .loading = true := (s.scanIn_iff .loading).2 ⟨free, loading⟩
  rw [exec_loadingEnd, execLoadingEnd_of_scanIn inLoading, factoryDefects]

end Sys2Proof.Machine

/-! PROOFS. The device requests (11_control_link_requests_and_events.md): IDENTIFY.

IDENTIFY is one of the four requests that skip the start-up check (R181), so its checks look at the target and the body
only, and pass in every state of the part. Its owner then leaves the state as it is (`State.carryOut_unchanged`). -/

namespace Sys2Proof.Machine

/-! ### A request that skips the start-up check (R181) -/

theorem targetOf_device : targetOf 0xFF#8 = .device := by decide

/-- Unlike `deviceChecks_ok`, this asks nothing of the start-up state. -/
theorem deviceChecks_ungated_ok {m : Message} (k : Works) {fits : Nat → Bool} (target : targetOf m.target = .device)
    (length_fits : fits m.body.length = true) : deviceChecks false m k fits = none := by
  simp [deviceChecks, target, length_fits]

/-! ### A request whose owner changes nothing (R180) -/

/-- Of the state, only the two queues of the link change: the request leaves the one, its reply enters the other. -/
theorem State.carryOut_unchanged {s : State} {m : Message} {rest : List Message} (front : s.AtFront m rest)
    {kind : Byte} (of_kind : m.kind = kind) {owner : Message → State → Reply × State} {r : Reply}
    (reads : owner m (s.taken rest) = (r, s.taken rest)) :
    s.carryOut kind owner = .next (s.answered m rest r s.works) := by
  rw [State.carryOut_front front of_kind, reads]
  simp only [State.placeReply, State.answered, State.taken]

/-! ### IDENTIFY (R182) -/

theorem exec_reqIdentify (s : State) : exec .reqIdentify s = s.carryOut 0x01#8 identifyAnswer := rfl

/-- The fields of R182 in bytes, each low byte first (R189). -/
theorem identifyBody_bytes :
    identifyBody = [0x57#8, 0x4E#8, 0xF8#8, 0x07#8, 0x01#8, 20#8, 0x00#8, 0x20#8, 0x00#8, 0x30#8, 32#8] := by
  decide

theorem identifyAnswer_of_device {m : Message} (s : State) (target : targetOf m.target = .device)
    (no_body : m.body = []) : identifyAnswer m s = (⟨.ok, identifyBody⟩, s) := by
  have passes : deviceChecks false m s.works (lengthIs 0) = none :=
    deviceChecks_ungated_ok s.works target (by simp [lengthIs, no_body])
  simp [identifyAnswer, passes]

/-- Settles O12: the checks pass whatever the start-up state, and the owner hands the state back unchanged. -/
theorem identifyReportsThePart : Obligations.IdentifyReportsThePart := by
  intro s m rest front of_kind device no_body
  have target : targetOf m.target = .device := by rw [device, targetOf_device]
  rw [exec_reqIdentify, State.carryOut_unchanged front of_kind (identifyAnswer_of_device (s.taken rest) target no_body),
    identifyBody_bytes]

end Sys2Proof.Machine

/-! PROOFS. What a request can do (R180, R181).

Each owner of a request is taken apart once: it refuses and changes nothing, reports and changes nothing, or carries out
one of the operations of `Works.Request`, under the guards that its checks have established. Every statement about all
requests at once (what a refusal changes, what a step keeps) is read off these cases. -/

namespace Sys2Proof.Machine

/-! ### The checks -/

/-- A status that refuses nothing: OK or CLAMPED (R181). -/
def Status.accepts (st : Status) : Prop := st = .ok ∨ st = .clamped

theorem okOrClamped_accepts (b : Bool) : (okOrClamped b).accepts := by
  cases b
  · exact Or.inl rfl
  · exact Or.inr rfl

theorem Works.startCheck_eq_none {k : Works} (h : k.startCheck = none) : k.startup = .done := by
  unfold Works.startCheck at h
  split at h <;> simp_all

theorem Works.startCheck_refuses {k : Works} {st : Status} (h : k.startCheck = some st) : ¬st.accepts := by
  unfold Works.startCheck at h
  split at h <;> simp_all [Status.accepts] <;> subst h <;> simp

theorem targetOf_channel_lt {b : Byte} {c : Nat} (h : targetOf b = .channel c) : c < Config.channelCount := by
  unfold targetOf at h
  split at h
  · simp_all
  · split at h
    · simp at h
    · split at h <;> simp at h

/-- A request that names a channel in a part whose scan is DONE. -/
structure Message.Names (m : Message) (k : Works) (c : Nat) : Prop where
  done : k.startup = .done
  target : targetOf m.target = .channel c
  channel : c < Config.channelCount

theorem channelTarget_error {m : Message} {k : Works} {st : Status} (h : channelTarget m k = .error st) :
    ¬st.accepts := by
  unfold channelTarget at h
  split at h
  · rename_i st' hs
    simp only [Except.error.injEq] at h
    exact h ▸ Works.startCheck_refuses hs
  · split at h
    · simp at h
    · simp only [Except.error.injEq] at h
      subst h
      simp [Status.accepts]

theorem channelTarget_names {m : Message} {k : Works} {c : Nat} (h : channelTarget m k = .ok c) : m.Names k c := by
  unfold channelTarget at h
  split at h
  · simp at h
  · rename_i hs
    split at h
    · rename_i c' ht
      simp only [Except.ok.injEq] at h
      subst h
      exact ⟨Works.startCheck_eq_none hs, ht, targetOf_channel_lt ht⟩
    · simp at h

theorem channelTargetSized_error {m : Message} {k : Works} {n : Nat} {st : Status}
    (h : channelTargetSized m k n = .error st) : ¬st.accepts := by
  unfold channelTargetSized at h
  split at h
  · rename_i st' ht
    simp only [Except.error.injEq] at h
    exact h ▸ channelTarget_error ht
  · split at h
    · simp at h
    · simp only [Except.error.injEq] at h
      subst h
      simp [Status.accepts]

theorem channelTargetSized_names {m : Message} {k : Works} {n c : Nat} (h : channelTargetSized m k n = .ok c) :
    m.Names k c := by
  unfold channelTargetSized at h
  split at h
  · simp at h
  · rename_i c' ht
    split at h
    · simp only [Except.ok.injEq] at h
      exact h ▸ channelTarget_names ht
    · simp at h

theorem deviceChecks_refuses {gated : Bool} {m : Message} {k : Works} {fits : Nat → Bool} {st : Status}
    (h : deviceChecks gated m k fits = some st) : ¬st.accepts := by
  unfold deviceChecks at h
  split at h
  · rename_i st' hs
    simp only [Option.some.injEq] at h
    cases gated
    · simp at hs
    · exact h ▸ Works.startCheck_refuses (by simpa using hs)
  · split at h
    · simp only [Option.some.injEq] at h
      subst h
      simp [Status.accepts]
    · split at h
      · simp at h
      · simp only [Option.some.injEq] at h
        subst h
        simp [Status.accepts]

theorem deviceChecks_done {m : Message} {k : Works} {fits : Nat → Bool} (h : deviceChecks true m k fits = none) :
    k.startup = .done := by
  unfold deviceChecks at h
  split at h
  · simp at h
  · rename_i hs
    exact Works.startCheck_eq_none (by simpa using hs)

/-- A dictation channel with its letter, whatever it does (R75). -/
structure Works.Holds (k : Works) (c i : Nat) : Prop where
  opened : (k.chan c).state ≠ .closed
  dictates : (k.chan c).kind ≠ .transcription
  letter : (k.chan c).letter = some i

theorem Works.dictationLetter_error {k : Works} {c : Nat} {st : Status} (h : k.dictationLetter c = .error st) :
    ¬st.accepts := by
  unfold Works.dictationLetter at h
  dsimp only at h
  (repeat' split at h) <;> simp_all [Status.accepts] <;> subst h <;> simp

theorem Works.dictationLetter_holds {k : Works} {c i : Nat} (h : k.dictationLetter c = .ok i) : k.Holds c i := by
  unfold Works.dictationLetter at h
  dsimp only at h
  split at h
  · simp at h
  · rename_i opened
    split at h
    · simp at h
    · rename_i dictates
      split at h
      · rename_i i' letter
        simp only [Except.ok.injEq] at h
        exact ⟨opened, dictates, h ▸ letter⟩
      · simp at h

theorem dictationChecks_error {m : Message} {k : Works} {st : Status} (h : dictationChecks m k = .error st) :
    ¬st.accepts := by
  unfold dictationChecks at h
  split at h
  · rename_i ht
    simp only [Except.error.injEq] at h
    exact h ▸ channelTarget_error ht
  · split at h
    · rename_i hl
      simp only [Except.error.injEq] at h
      exact h ▸ Works.dictationLetter_error hl
    · simp at h

theorem dictationChecks_holds {m : Message} {k : Works} {c i : Nat} (h : dictationChecks m k = .ok (c, i)) :
    m.Names k c ∧ k.Holds c i := by
  unfold dictationChecks at h
  split at h
  · simp at h
  · rename_i c' ht
    split at h
    · simp at h
    · rename_i i' hl
      simp only [Except.ok.injEq, Prod.mk.injEq] at h
      obtain ⟨rfl, rfl⟩ := h
      exact ⟨channelTarget_names ht, Works.dictationLetter_holds hl⟩

theorem Works.readyLetter_error {k : Works} {c : Nat} {st : Status} (h : k.readyLetter c = .error st) : ¬st.accepts := by
  unfold Works.readyLetter at h
  dsimp only at h
  (repeat' split at h) <;> simp_all [Status.accepts] <;> subst h <;> simp

theorem Works.readyLetter_ok {k : Works} {c i : Nat} (h : k.readyLetter c = .ok i) :
    (k.chan c).state = .ready ∧ k.Holds c i := by
  unfold Works.readyLetter at h
  dsimp only at h
  split at h
  · simp at h
  · rename_i opened
    split at h
    · simp at h
    · rename_i dictates
      split at h
      · rename_i i' ready letter
        simp only [Except.ok.injEq] at h
        exact ⟨ready, opened, dictates, h ▸ letter⟩
      · simp at h

theorem readyChecks_error {m : Message} {k : Works} {st : Status} (h : readyChecks m k = .error st) : ¬st.accepts := by
  unfold readyChecks at h
  split at h
  · rename_i ht
    simp only [Except.error.injEq] at h
    exact h ▸ channelTargetSized_error ht
  · split at h
    · rename_i hl
      simp only [Except.error.injEq] at h
      exact h ▸ Works.readyLetter_error hl
    · simp at h

theorem readyChecks_holds {m : Message} {k : Works} {c i : Nat} (h : readyChecks m k = .ok (c, i)) :
    m.Names k c ∧ (k.chan c).state = .ready ∧ k.Holds c i := by
  unfold readyChecks at h
  split at h
  · simp at h
  · rename_i c' ht
    split at h
    · simp at h
    · rename_i i' hl
      simp only [Except.ok.injEq, Prod.mk.injEq] at h
      obtain ⟨rfl, rfl⟩ := h
      exact ⟨channelTargetSized_names ht, Works.readyLetter_ok hl⟩

theorem openChecks_error {m : Message} {k : Works} {st : Status} (h : openChecks m k = .error st) : ¬st.accepts := by
  unfold openChecks at h
  split at h
  · rename_i ht
    simp only [Except.error.injEq] at h
    exact h ▸ channelTargetSized_error ht
  · split at h
    · simp at h
    · simp only [Except.error.injEq] at h
      subst h
      simp [Status.accepts]

theorem openChecks_closed {m : Message} {k : Works} {c job : Nat} (h : openChecks m k = .ok (c, job)) :
    m.Names k c ∧ (k.chan c).state = .closed := by
  unfold openChecks at h
  split at h
  · simp at h
  · rename_i c' ht
    split at h
    · rename_i closed
      simp only [Except.ok.injEq, Prod.mk.injEq] at h
      obtain ⟨rfl, -⟩ := h
      exact ⟨channelTargetSized_names ht, closed⟩
    · simp at h

theorem Works.transcriptionRefusal_refuses {k : Works} {c : Nat} {st : Status}
    (h : k.transcriptionRefusal c = some st) : ¬st.accepts := by
  unfold Works.transcriptionRefusal at h
  (repeat' split at h) <;> simp_all [Status.accepts] <;> subst h <;> simp

theorem Works.transcriptionRefusal_eq_none {k : Works} {c : Nat} (h : k.transcriptionRefusal c = none) :
    (k.chan c).state ≠ .closed ∧ (k.chan c).kind ≠ .dictation := by
  unfold Works.transcriptionRefusal at h
  (repeat' split at h) <;> simp_all

theorem Works.feedRefusal_refuses {k : Works} {c : Nat} {rs : List FedRecord} {st : Status}
    (h : k.feedRefusal c rs = some st) : ¬st.accepts := by
  unfold Works.feedRefusal at h
  dsimp only at h
  (repeat' split at h) <;> simp_all [Status.accepts] <;> subst h <;> simp

theorem Works.feedRefusal_eq_none {k : Works} {c : Nat} {rs : List FedRecord} (h : k.feedRefusal c rs = none) :
    (k.chan c).endFed = false ∧ endFollowed rs = false ∧ follows ((k.chan c).feedStart rs) rs = true ∧
      k.hasRoom c rs = true := by
  unfold Works.feedRefusal at h
  dsimp only at h
  (repeat' split at h) <;> simp_all

end Sys2Proof.Machine

/-! PROOFS. What every request answers (R180, R181): the cases of `Works.Answer`, and that a reply fits the room which
the transmit queue keeps for it. -/

namespace Sys2Proof.Machine

/-! ### The size of a reply (R180, R189) -/

@[simp] theorem leBytes_length (n v : Nat) : (leBytes n v).length = n := by
  induction n generalizing v with
  | zero => rfl
  | succ n ih => simp [leBytes, ih]

@[simp] theorem byte1_length (v : Nat) : (byte1 v).length = 1 := leBytes_length 1 v
@[simp] theorem byte2_length (v : Nat) : (byte2 v).length = 2 := leBytes_length 2 v
@[simp] theorem byte3_length (v : Nat) : (byte3 v).length = 3 := leBytes_length 3 v
@[simp] theorem byte4_length (v : Nat) : (byte4 v).length = 4 := leBytes_length 4 v
@[simp] theorem twoFlags_length (a b : Bool) : (twoFlags a b).length = 1 := byte1_length _

@[simp] theorem replyBytes_length (m : Message) (r : Reply) : (replyBytes m r).length = 7 + r.body.length := by
  simp [replyBytes]
  omega

/-- The longest body of a reply (R180). -/
def maxBody : Nat := Config.maxReply - 7

theorem sentRecord_length_le (bytes : List Byte) : (sentRecord bytes).length ≤ 83 := by
  unfold sentRecord
  split
  · rename_i h rest
    have size : (headerWidth h).recordBytes ≤ 83 := by cases headerWidth h <;> simp [Width.recordBytes]
    simp only [List.length_cons, List.length_take]
    omega
  · simp

theorem runItemBytes_length_le (pos : Nat) (kind : RunKind) (n : Nat) : (runItemBytes pos kind n).length ≤ 87 := by
  cases kind <;> simp [runItemBytes]

theorem Works.takeSpeech_item_length_le (k : Works) (pos slot : Nat) (got : Option (List Byte)) :
    (k.takeSpeech pos slot got).item.length ≤ 87 := by
  cases got with
  | none => simp [Works.takeSpeech, damagedItemBytes]
  | some bytes =>
    have := sentRecord_length_le bytes
    simp [Works.takeSpeech, speechItemBytes]
    omega

theorem Works.takeEntry_item_length_le {k : Works} {st : Store} {errs : List CellError} {i : Nat} {e : Entry}
    {rest : List SealedEntry} {t : Taken} (h : k.takeEntry st errs i e rest = .ok (some t)) : t.item.length ≤ 87 := by
  unfold Works.takeEntry at h
  dsimp only at h
  split at h
  · simp only [Except.ok.injEq, Option.some.injEq] at h
    subst h
    exact runItemBytes_length_le _ _ _
  · split at h
    · simp only [Except.ok.injEq, Option.some.injEq] at h
      subst h
      exact Works.takeSpeech_item_length_le _ _ _ _
    · simp at h
  · simp at h

theorem Works.takeEnding_item_length_le (k : Works) (i : Nat) : (k.takeEnding i).item.length ≤ 87 := by
  unfold Works.takeEnding
  dsimp only
  split <;> simp [markItemBytes, endItemBytes]

theorem Works.takeItem_item_length_le {k : Works} {st : Store} {errs : List CellError} {i : Nat} {t : Taken}
    (h : k.takeItem st errs i = .ok (some t)) : t.item.length ≤ 87 := by
  unfold Works.takeItem at h
  dsimp only at h
  split at h
  · simp only [Except.ok.injEq, Option.some.injEq] at h
    subst h
    simp [markItemBytes]
  · exact Works.takeEntry_item_length_le h
  · simp only [Except.ok.injEq] at h
    split at h
    · simp only [Option.some.injEq] at h
      subst h
      exact Works.takeEnding_item_length_le k i
    · simp at h

theorem Works.takeItems_length_le {st : Store} {errs : List CellError} {i n : Nat} {k k1 : Works}
    {items : List (List Byte)} (h : Works.takeItems st errs i n k = .ok (k1, items)) : items.flatten.length ≤ 87 * n := by
  induction n generalizing k k1 items with
  | zero =>
    simp only [Works.takeItems, Except.ok.injEq, Prod.mk.injEq] at h
    simp [← h.2]
  | succ n ih =>
    unfold Works.takeItems at h
    split at h
    · simp at h
    · simp only [Except.ok.injEq, Prod.mk.injEq] at h
      simp [← h.2]
    · rename_i t ht
      have item := Works.takeItem_item_length_le ht
      split at h
      · simp only [Except.ok.injEq, Prod.mk.injEq] at h
        simp only [← h.2, List.flatten_cons, List.flatten_nil, List.append_nil]
        omega
      · split at h
        · simp at h
        · rename_i k2 more hm
          simp only [Except.ok.injEq, Prod.mk.injEq] at h
          have rest := ih hm
          simp only [← h.2, List.flatten_cons, List.length_append]
          omega

theorem clampNat_bounds {lo hi : Nat} (h : lo ≤ hi) (v : Nat) : lo ≤ (clampNat lo hi v).1 ∧ (clampNat lo hi v).1 ≤ hi := by
  unfold clampNat
  split
  · exact ⟨Nat.le_refl _, h⟩
  · split
    · exact ⟨h, Nat.le_refl _⟩
    · simp only
      omega

theorem Works.takeFrom_body_length_le {k k' : Works} {st : Store} {errs : List CellError} {i count : Nat} {r : Reply}
    (h : k.takeFrom st errs i count = .ok (r, k')) : r.body.length ≤ maxBody := by
  unfold Works.takeFrom at h
  dsimp only at h
  split at h
  · simp at h
  · rename_i k1 items ht
    simp only [Except.ok.injEq, Prod.mk.injEq] at h
    have limit := (clampNat_bounds (lo := 1) (hi := 8) (by omega) count).2
    have size := Works.takeItems_length_le ht
    simp only [← h.1, List.length_append, byte1_length, maxBody, Config.maxReply]
    omega

theorem defects_bytes_length (ds : List Defect) : (ds.flatMap Defect.bytes).length = 3 * ds.length := by
  induction ds with
  | nil => rfl
  | cons d ds ih => simp [Defect.bytes, ih]; omega

theorem Works.defectsBody_length_le {k : Works} (h : k.TablesFit) : k.defectsBody.length ≤ maxBody := by
  obtain ⟨-, defects, -⟩ := h
  simp only [Config.defectCount] at defects
  simp only [Works.defectsBody, List.length_append, byte1_length, byte2_length, defects_bytes_length, List.length_cons,
    List.length_nil, maxBody, Config.maxReply]
  omega

theorem markEntries_length (ms : List Mark) : ((ms.mapIdx markEntry).flatten).length = 7 * ms.length := by
  have each : ∀ x ∈ ms.mapIdx markEntry, x.length = 7 := by
    intro x hx
    obtain ⟨n, hn, rfl⟩ := List.mem_mapIdx.1 hx
    simp [markEntry]
  rw [List.length_flatten, List.map_congr_left each]
  simp
  omega

theorem Works.TablesFit.marks_length_le {k : Works} (h : k.TablesFit) (i : Nat) : (k.letter i).marks.length ≤ 16 := by
  obtain ⟨-, -, marks⟩ := h
  by_cases hi : i < k.letters.length
  · have hl : k.letter i = k.letters[i] := by simp [Works.letter, hi]
    rw [hl]
    exact marks _ (List.getElem_mem hi)
  · simp [Works.letter, hi, Letter.freeRecord]

theorem markListBody_length_le {k : Works} (h : k.TablesFit) (i : Nat) :
    (markListBody (k.letter i)).length ≤ maxBody := by
  have marks := h.marks_length_le i
  simp only [markListBody, List.length_append, byte1_length, byte3_length, markEntries_length, maxBody,
    Config.maxReply]
  omega

/-! ### What an owner can do -/

/-- The operations by which a request changes the works, each under what its checks have established. -/
inductive Works.Request (k : Works) : Works → Prop
  | clearOverflow (c : Nat) : Request k (k.clearOverflow c)
  | clearEvent (e : Event) (pending : e ∈ k.events) : Request k (k.clearEvent e)
  | set (chans : List Nat) (svs : List SettingValue) (done : k.startup = .done)
      (named : ∀ c ∈ chans, c < Config.channelCount) : Request k (k.setChannels chans svs)
  | openLetter (m : Message) (c i job : Nat) (names : m.Names k c) (closed : (k.chan c).state = .closed)
      (free : k.findFree = some i) : Request k (k.openLetter c i job)
  | attachLetter (m : Message) (c i job : Nat) (names : m.Names k c) (closed : (k.chan c).state = .closed)
      (found : k.findJob job = some i) (detached : (k.letter i).state = .detached) : Request k (k.attachLetter c i)
  | detachLetter (m : Message) (c i : Nat) (names : m.Names k c) (ready : (k.chan c).state = .ready)
      (holds : k.Holds c i) : Request k (k.detachLetter c i)
  | endLetter (m : Message) (c i : Nat) (names : m.Names k c) (ready : (k.chan c).state = .ready)
      (holds : k.Holds c i) : Request k (k.endLetter c i)
  | discardChannel (m : Message) (c i : Nat) (names : m.Names k c) (ready : (k.chan c).state = .ready)
      (holds : k.Holds c i) : Request k ((k.modChan c Channel.release).discardLetter i)
  | discardLetter (i job : Nat) (done : k.startup = .done) (found : k.findJob job = some i)
      (left : (k.letter i).state ≠ .attached) : Request k (k.discardLetter i)
  | truncateLetter (m : Message) (c i : Nat) (names : m.Names k c) (ready : (k.chan c).state = .ready)
      (holds : k.Holds c i) : Request k (k.truncateLetter c i)
  | record (m : Message) (c i : Nat) (mode : RecMode) (names : m.Names k c) (holds : k.Holds c i) :
      Request k (k.record c i mode).2
  | stop (m : Message) (c i : Nat) (names : m.Names k c) (holds : k.Holds c i) : Request k (k.stopChan c i)
  | wind (m : Message) (c i : Nat) (t : WindTarget) (names : m.Names k c) (holds : k.Holds c i) :
      Request k (k.wind c i t).2
  | review (m : Message) (c i : Nat) (o : StopOption) (names : m.Names k c) (holds : k.Holds c i)
      (ready : (k.chan c).state = .ready) : Request k (k.beginReview c i ((k.letter i).stopPoint o).1)
  | capture (m : Message) (c i : Nat) (kind : MarkKind) (label : BitVec 16) (names : m.Names k c) (holds : k.Holds c i)
      (room : ((k.settled c).letter i).marksFull kind ((k.settled c).capturePoint c i) = false)
      (entry : (((k.settled c).letter i).splitRun ((k.settled c).capturePoint c i) (k.settled c).nextEntry).isSome = true →
        (k.settled c).freeEntries ≠ 0) :
      Request k ((k.settled c).capture c i kind label ((k.settled c).capturePoint c i))
  | withoutMark (m : Message) (c i n : Nat) (names : m.Names k c) (holds : k.Holds c i) :
      Request k (k.modLetter i fun l => l.withoutMark n)
  | take (st : Store) (errs : List CellError) (i job count : Nat) (r : Reply) (k' : Works) (done : k.startup = .done)
      (found : k.findJob job = some i) (taken : k.takeFrom st errs i count = .ok (r, k')) : Request k k'
  | load (m : Message) (c : Nat) (names : m.Names k c) (closed : (k.chan c).state = .closed) :
      Request k (k.modChan c Channel.load)
  | unload (m : Message) (c : Nat) (names : m.Names k c) (opened : (k.chan c).state ≠ .closed)
      (plays : (k.chan c).kind ≠ .dictation) : Request k (k.unloadChan c)
  | play (m : Message) (c : Nat) (on : Bool) (names : m.Names k c) (opened : (k.chan c).state ≠ .closed)
      (plays : (k.chan c).kind ≠ .dictation) : Request k (k.play c on).2
  | halt (m : Message) (c : Nat) (names : m.Names k c) (opened : (k.chan c).state ≠ .closed)
      (plays : (k.chan c).kind ≠ .dictation) : Request k (k.haltChan c).2
  | step (m : Message) (c : Nat) (n : Int) (names : m.Names k c) (opened : (k.chan c).state ≠ .closed)
      (plays : (k.chan c).kind ≠ .dictation) : Request k (k.stepChan c n).2

/-- What the owner of a request answers, and the works it leaves. Only a MARK refused with FULL changes anything of a
refused request (R65, R181). -/
inductive Works.Answer (m : Message) (k : Works) : Reply × Works → Prop
  | refused {st : Status} (h : ¬st.accepts) : Answer m k (refuse st, k)
  | marksFull (c i : Nat) (kind : m.kind = 0x24#8) (names : m.Names k c) (holds : k.Holds c i) :
      Answer m k (refuse .full, k.modLetter i fun l => { l with overflow := true })
  | reported {st : Status} {body : List Byte} (h : st.accepts) (size : k.TablesFit → body.length ≤ maxBody) :
      Answer m k (⟨st, body⟩, k)
  | carried {st : Status} {body : List Byte} {k' : Works} (h : st.accepts) (size : body.length ≤ maxBody)
      (request : k.Request k') : Answer m k (⟨st, body⟩, k')

theorem accepts_ok : Status.ok.accepts := Or.inl rfl

theorem Works.Answer.ok_of_request {m : Message} {k k' : Works} {body : List Byte} (size : body.length ≤ maxBody)
    (request : k.Request k') : k.Answer m (⟨.ok, body⟩, k') := .carried accepts_ok size request

theorem Works.Answer.of_request {m : Message} {k : Works} {r : Reply × Works} (accepts : r.1.status.accepts)
    (size : r.1.body.length ≤ maxBody) (request : k.Request r.2) : k.Answer m r := .carried accepts size request

theorem small_le_maxBody {n : Nat} (h : n ≤ 27) : n ≤ maxBody := by
  simp only [maxBody, Config.maxReply]
  omega

/-! ### The letter requests -/

theorem openAnswer_cases (m : Message) (k : Works) : k.Answer m (openAnswer m k) := by
  unfold openAnswer
  split
  · rename_i st h
    exact .refused (openChecks_error h)
  · rename_i c job h
    obtain ⟨names, closed⟩ := openChecks_closed h
    split
    · exact .refused (by simp [Status.accepts])
    · split
      · exact .refused (by simp [Status.accepts])
      · rename_i i free
        exact .ok_of_request (small_le_maxBody (by simp)) (.openLetter m c i job names closed free)

theorem attachAnswer_cases (m : Message) (k : Works) : k.Answer m (attachAnswer m k) := by
  unfold attachAnswer
  split
  · rename_i st h
    exact .refused (openChecks_error h)
  · rename_i c job h
    obtain ⟨names, closed⟩ := openChecks_closed h
    split
    · exact .refused (by simp [Status.accepts])
    · rename_i i found
      split
      · rename_i detached
        exact .ok_of_request (small_le_maxBody (by simp [attachBody]))
          (.attachLetter m c i job names closed found detached)
      · exact .refused (by simp [Status.accepts])
      · exact .refused (by simp [Status.accepts])

theorem detachAnswer_cases (m : Message) (k : Works) : k.Answer m (detachAnswer m k) := by
  unfold detachAnswer
  split
  · rename_i st h
    exact .refused (readyChecks_error h)
  · rename_i c i h
    obtain ⟨names, ready, holds⟩ := readyChecks_holds h
    exact .ok_of_request (Nat.zero_le _) (.detachLetter m c i names ready holds)

theorem endAnswer_cases (m : Message) (k : Works) : k.Answer m (endAnswer m k) := by
  unfold endAnswer
  split
  · rename_i st h
    exact .refused (readyChecks_error h)
  · rename_i c i h
    obtain ⟨names, ready, holds⟩ := readyChecks_holds h
    exact .ok_of_request (small_le_maxBody (by simp)) (.endLetter m c i names ready holds)

theorem discardAnswer_cases (m : Message) (k : Works) : k.Answer m (discardAnswer m k) := by
  unfold discardAnswer
  split
  · unfold discardByJob
    split
    · rename_i st h
      exact .refused (deviceChecks_refuses h)
    · rename_i h
      have done := deviceChecks_done h
      split
      · exact .refused (by simp [Status.accepts])
      · rename_i i found
        split
        · exact .refused (by simp [Status.accepts])
        · rename_i left
          exact .ok_of_request (Nat.zero_le _) (.discardLetter i _ done found left)
  · unfold discardByChannel
    split
    · rename_i st h
      exact .refused (readyChecks_error h)
    · rename_i c i h
      obtain ⟨names, ready, holds⟩ := readyChecks_holds h
      exact .ok_of_request (Nat.zero_le _) (.discardChannel m c i names ready holds)

theorem truncateAnswer_cases (m : Message) (k : Works) : k.Answer m (truncateAnswer m k) := by
  unfold truncateAnswer
  split
  · rename_i st h
    exact .refused (readyChecks_error h)
  · rename_i c i h
    obtain ⟨names, ready, holds⟩ := readyChecks_holds h
    exact .ok_of_request (small_le_maxBody (by simp)) (.truncateLetter m c i names ready holds)

/-! ### The device requests -/

theorem pollAnswer_cases (m : Message) (k : Works) : k.Answer m (pollAnswer m k) := by
  unfold pollAnswer
  split
  · rename_i st h
    exact .refused (deviceChecks_refuses h)
  · split
    · rename_i e pending
      exact .ok_of_request (small_le_maxBody (by simp [Works.eventBody]))
        (.clearEvent e (List.mem_of_find?_eq_some pending))
    · exact .reported accepts_ok fun _ => small_le_maxBody (by simp [noneBody])

theorem defectsAnswer_cases (m : Message) (k : Works) : k.Answer m (defectsAnswer m k) := by
  unfold defectsAnswer
  split
  · rename_i st h
    exact .refused (deviceChecks_refuses h)
  · exact .reported accepts_ok Works.defectsBody_length_le

theorem setMask_lt {v c : Nat} {chans : List Nat} (h : setMask v = some chans) (hc : c ∈ chans) :
    c < Config.channelCount := by
  unfold setMask at h
  split at h
  · simp only [Option.some.injEq] at h
    subst h
    exact List.mem_range.1 (List.mem_filter.1 hc).1
  · simp at h

theorem setBodyOf_lt {body : List Byte} {chans : List Nat} {svs : List SettingValue} {cl : Bool}
    (h : setBodyOf body = some (chans, svs, cl)) {c : Nat} (hc : c ∈ chans) : c < Config.channelCount := by
  unfold setBodyOf at h
  split at h
  · split at h
    · rename_i mask fields
      simp only [Option.some.injEq, Prod.mk.injEq] at h
      obtain ⟨rfl, -⟩ := h
      exact setMask_lt mask hc
    · simp at h
  · simp at h

theorem setAnswer_cases (m : Message) (k : Works) : k.Answer m (setAnswer m k) := by
  unfold setAnswer
  split
  · rename_i st h
    exact .refused (deviceChecks_refuses h)
  · rename_i h
    split
    · exact .refused (by simp [Status.accepts])
    · rename_i chans svs cl hb
      split
      · exact .carried (okOrClamped_accepts cl) (Nat.zero_le _)
          (.set chans svs (deviceChecks_done h) fun c hc => setBodyOf_lt hb hc)
      · exact .reported accepts_ok fun _ => Nat.zero_le _

/-! ### Motion and marks -/

theorem recordAnswer_cases (m : Message) (k : Works) : k.Answer m (recordAnswer m k) := by
  unfold recordAnswer
  split
  · rename_i st h
    exact .refused (dictationChecks_error h)
  · rename_i c i h
    obtain ⟨names, holds⟩ := dictationChecks_holds h
    split
    · exact .refused (by simp [Status.accepts])
    · rename_i mode hb
      have request := Works.Request.record m c i mode names holds
      unfold Works.record at request ⊢
      split
      · exact .ok_of_request (Nat.zero_le _) (by simpa [*] using request)
      · exact .ok_of_request (Nat.zero_le _) (by simpa [*] using request)
      · exact .ok_of_request (Nat.zero_le _) (by simpa [*] using request)
      · exact .refused (by simp [Status.accepts])

theorem stopAnswer_cases (m : Message) (k : Works) : k.Answer m (stopAnswer m k) := by
  unfold stopAnswer
  split
  · rename_i st h
    exact .refused (channelTargetSized_error h)
  · rename_i c h
    have names := channelTargetSized_names h
    split
    · exact .reported accepts_ok fun _ => small_le_maxBody (by simp)
    · split
      · rename_i st hl
        exact .refused (Works.dictationLetter_error hl)
      · rename_i i hl
        exact .ok_of_request (small_le_maxBody (by simp)) (.stop m c i names (Works.dictationLetter_holds hl))

theorem windAnswer_cases (m : Message) (k : Works) : k.Answer m (windAnswer m k) := by
  unfold windAnswer
  split
  · rename_i st h
    exact .refused (dictationChecks_error h)
  · rename_i c i h
    obtain ⟨names, holds⟩ := dictationChecks_holds h
    split
    · exact .refused (by simp [Status.accepts])
    · rename_i t hb
      split
      · have request := Works.Request.wind m c i t names holds
        unfold Works.wind at request ⊢
        dsimp only at request ⊢
        split
        · exact .of_request (okOrClamped_accepts _) (small_le_maxBody (by simp [Works.windFrom])) (by simpa [*] using request)
        · exact .of_request (okOrClamped_accepts _) (small_le_maxBody (by simp [Works.windFrom])) (by simpa [*] using request)
        · exact .refused (by simp [Status.accepts])
      · exact .refused (by simp [Status.accepts])

theorem reviewAnswer_cases (m : Message) (k : Works) : k.Answer m (reviewAnswer m k) := by
  unfold reviewAnswer
  split
  · rename_i st h
    exact .refused (dictationChecks_error h)
  · rename_i c i h
    obtain ⟨names, holds⟩ := dictationChecks_holds h
    split
    · exact .refused (by simp [Status.accepts])
    · rename_i o hb
      unfold Works.review
      split
      · rename_i ready
        exact .carried (okOrClamped_accepts _) (small_le_maxBody (by simp)) (.review m c i o names holds ready)
      · exact .refused (by simp [Status.accepts])

theorem Works.mark_cases {m : Message} {k : Works} {c i : Nat} (names : m.Names k c) (holds : k.Holds c i)
    (hk : m.kind = 0x24#8) (kind : MarkKind) (label : BitVec 16) : k.Answer m (k.mark c i kind label) := by
  unfold Works.mark
  dsimp only
  split
  · exact .marksFull c i hk names holds
  · rename_i room
    split
    · exact .refused (by simp [Status.accepts])
    · rename_i entry
      refine .ok_of_request (small_le_maxBody (by simp)) (.capture m c i kind label names holds ?_ ?_)
      · simpa using room
      · intro split none_left
        exact entry (by simp [split, none_left])

theorem markAnswer_cases {m : Message} (hk : m.kind = 0x24#8) (k : Works) : k.Answer m (markAnswer m k) := by
  unfold markAnswer
  split
  · rename_i st h
    exact .refused (dictationChecks_error h)
  · rename_i c i h
    obtain ⟨names, holds⟩ := dictationChecks_holds h
    split
    · exact .refused (by simp [Status.accepts])
    · exact Works.mark_cases names holds hk _ _

theorem unmarkAnswer_cases (m : Message) (k : Works) : k.Answer m (unmarkAnswer m k) := by
  unfold unmarkAnswer
  split
  · rename_i st h
    exact .refused (dictationChecks_error h)
  · rename_i c i h
    obtain ⟨names, holds⟩ := dictationChecks_holds h
    split
    · exact .refused (by simp [Status.accepts])
    · rename_i n hn
      exact .ok_of_request (Nat.zero_le _) (.withoutMark m c i n names holds)

theorem marklistAnswer_cases (m : Message) (k : Works) : k.Answer m (marklistAnswer m k) := by
  unfold marklistAnswer
  split
  · rename_i st h
    exact .refused (channelTargetSized_error h)
  · split
    · rename_i st hl
      exact .refused (Works.dictationLetter_error hl)
    · rename_i i hl
      exact .reported accepts_ok fun fit => markListBody_length_le fit i

/-! ### TAKE and transcription -/

theorem Works.takeFrom_accepts {k k' : Works} {st : Store} {errs : List CellError} {i count : Nat} {r : Reply}
    (h : k.takeFrom st errs i count = .ok (r, k')) : r.status.accepts := by
  unfold Works.takeFrom at h
  dsimp only at h
  split at h
  · simp at h
  · simp only [Except.ok.injEq, Prod.mk.injEq] at h
    obtain ⟨rfl, -⟩ := h
    exact okOrClamped_accepts _

theorem takeAnswer_cases {errs : List CellError} {m : Message} {s : State} {p : Reply × Works}
    (h : takeAnswer errs m s = .ok p) : s.works.Answer m p := by
  unfold takeAnswer at h
  split at h
  · rename_i st hc
    simp only [Except.ok.injEq] at h
    exact h ▸ .refused (deviceChecks_refuses hc)
  · rename_i hc
    have done := deviceChecks_done hc
    split at h
    · simp only [Except.ok.injEq] at h
      exact h ▸ .refused (by simp [Status.accepts])
    · rename_i i found
      split at h
      · simp only [Except.ok.injEq] at h
        exact h ▸ .refused (by simp [Status.accepts])
      · obtain ⟨⟨st, body⟩, k'⟩ := p
        exact .carried (Works.takeFrom_accepts h) (Works.takeFrom_body_length_le h)
          (.take s.store errs i _ _ _ k' done found h)

theorem loadAnswer_cases (m : Message) (k : Works) : k.Answer m (loadAnswer m k) := by
  unfold loadAnswer
  split
  · rename_i st h
    exact .refused (channelTarget_error h)
  · rename_i c h
    have names := channelTarget_names h
    split
    · exact .refused (by simp [Status.accepts])
    · split
      · split
        · rename_i closed
          exact .ok_of_request (Nat.zero_le _) (.load m c names closed)
        · exact .refused (by simp [Status.accepts])
      · exact .refused (by simp [Status.accepts])

theorem unloadAnswer_cases (m : Message) (k : Works) : k.Answer m (unloadAnswer m k) := by
  unfold unloadAnswer
  split
  · rename_i st h
    exact .refused (channelTargetSized_error h)
  · rename_i c h
    have names := channelTargetSized_names h
    split
    · exact .reported accepts_ok fun _ => Nat.zero_le _
    · rename_i opened
      split
      · exact .refused (by simp [Status.accepts])
      · rename_i plays
        exact .ok_of_request (Nat.zero_le _) (.unload m c names opened plays)

theorem playBytes_length_le (p : Option Nat) : (playBytes p).length ≤ maxBody :=
  small_le_maxBody (by cases p <;> simp [playBytes])

theorem playAnswer_cases (m : Message) (k : Works) : k.Answer m (playAnswer m k) := by
  unfold playAnswer
  split
  · rename_i st h
    exact .refused (channelTarget_error h)
  · rename_i c h
    have names := channelTarget_names h
    split
    · rename_i st hr
      exact .refused (Works.transcriptionRefusal_refuses hr)
    · rename_i hr
      obtain ⟨opened, plays⟩ := Works.transcriptionRefusal_eq_none hr
      split
      · exact .refused (by simp [Status.accepts])
      · rename_i on hb
        have request := Works.Request.play m c on names opened plays
        unfold Works.play at request ⊢
        split
        · exact .refused (by simp [Status.accepts])
        · exact .refused (by simp [Status.accepts])
        · exact .ok_of_request (playBytes_length_le _) (by simpa [*] using request)

theorem haltAnswer_cases (m : Message) (k : Works) : k.Answer m (haltAnswer m k) := by
  unfold haltAnswer
  split
  · rename_i st h
    exact .refused (channelTargetSized_error h)
  · rename_i c h
    have names := channelTargetSized_names h
    split
    · exact .reported accepts_ok fun _ => Nat.zero_le _
    · rename_i opened
      split
      · exact .refused (by simp [Status.accepts])
      · rename_i plays
        refine .of_request ?_ ?_ (.halt m c names opened plays)
        · unfold Works.haltChan
          split <;> exact accepts_ok
        · unfold Works.haltChan
          split
          · exact playBytes_length_le _
          · exact playBytes_length_le _
          · exact Nat.zero_le _

theorem stepAnswer_cases (m : Message) (k : Works) : k.Answer m (stepAnswer m k) := by
  unfold stepAnswer
  split
  · rename_i st h
    exact .refused (channelTargetSized_error h)
  · rename_i c h
    have names := channelTargetSized_names h
    split
    · rename_i st hr
      exact .refused (Works.transcriptionRefusal_refuses hr)
    · rename_i hr
      obtain ⟨opened, plays⟩ := Works.transcriptionRefusal_eq_none hr
      have request := Works.Request.step m c (leSigned m.body) names opened plays
      unfold Works.stepChan at request ⊢
      dsimp only at request ⊢
      split
      · exact .refused (by simp [Status.accepts])
      · exact .refused (by simp [Status.accepts])
      · split
        · exact .carried (okOrClamped_accepts _) (small_le_maxBody (by simp)) (by simpa [*] using request)
        · exact .reported (okOrClamped_accepts _) fun _ => Nat.zero_le _

end Sys2Proof.Machine

/-! PROOFS. What a step can do (spec/95_what_each_step_holds.md): one case for each kind of effect, with the guards under
which it occurs. The invariants of chapters 3, 4, 7, 10 and 11 are each proved by these cases. -/

namespace Sys2Proof.Machine

/-- What the owner of a request answers, and the state that it leaves before the reply is placed. -/
inductive State.Answer (m : Message) (s : State) : Reply × State → Prop
  | works {r : Reply} {k : Works} (h : s.works.Answer m (r, k)) : Answer m s (r, { s with works := k })
  | status (body : List Byte) (size : body.length ≤ maxBody) : Answer m s (⟨.ok, body⟩, s.clearReported)
  | configure {st : Status} (body : List Byte) (cfg : Configured) (h : st.accepts) (size : body.length ≤ maxBody)
      (done : s.works.startup = .done) : Answer m s (⟨st, body⟩, s.configure cfg)
  | restart (kind : RestartKind) : Answer m s (⟨.ok, []⟩, s.takeRestart kind)
  | bind (c : Nat) (b : Binding) (body : List Byte) (size : body.length ≤ maxBody) (names : m.Names s.works c)
      (rx : s.line.heldElsewhere c Binding.rx b.rx = false) (tx : s.line.heldElsewhere c Binding.tx b.tx = false) :
      Answer m s (⟨.ok, body⟩, { s with line := { s.line with bindings := s.line.bindings.set c b } })
  | feed (c : Nat) (rs : List FedRecord) (body : List Byte) (size : body.length ≤ maxBody) (names : m.Names s.works c)
      (opened : (s.works.chan c).state ≠ .closed) (plays : (s.works.chan c).kind ≠ .dictation)
      (room : s.works.hasRoom c rs = true) : Answer m s (⟨.ok, body⟩, s.feed c rs)

theorem State.Answer.refused {m : Message} {s : State} {st : Status} (h : ¬st.accepts) : s.Answer m (refuse st, s) :=
  .works (.refused h)

theorem State.Answer.reported {m : Message} {s : State} {body : List Byte} (size : body.length ≤ maxBody) :
    s.Answer m (⟨.ok, body⟩, s) := .works (.reported accepts_ok fun _ => size)

theorem onWorks_cases {owner : Message → Works → Reply × Works} {m : Message} (s : State)
    (h : s.works.Answer m (owner m s.works)) : s.Answer m (onWorks owner m s) := .works h

/-! ### The requests that reach beyond the works -/

theorem identifyAnswer_cases (m : Message) (s : State) : s.Answer m (identifyAnswer m s) := by
  unfold identifyAnswer
  split
  · rename_i st h
    exact .refused (deviceChecks_refuses h)
  · exact .reported (small_le_maxBody (by decide))

theorem dictationStatus_length (ch : Channel) (l : Letter) : (dictationStatus ch l).length = 21 := by
  simp [dictationStatus]

theorem statusPos_length (ch : Channel) (p : Option Nat) : (ch.statusPos p).length = 3 := by
  unfold Channel.statusPos
  split <;> simp [posOrZero]

theorem transcriptionStatus_length (ch : Channel) : (transcriptionStatus ch).length = 17 := by
  simp [transcriptionStatus, statusPos_length]

theorem channelStatus_length_le (k : Works) (c : Nat) : (k.channelStatus c).length ≤ 27 := by
  unfold Works.channelStatus
  dsimp only
  split <;> simp [dictationStatus_length, transcriptionStatus_length]

theorem letterStatus_length_le (l : Letter) : (letterStatus l).length ≤ 27 := by
  unfold letterStatus
  split <;> simp

theorem deviceStatus_length (s : State) : s.deviceStatus.length = 27 := by simp [State.deviceStatus]

theorem statusAnswer_cases (m : Message) (s : State) : s.Answer m (statusAnswer m s) := by
  unfold statusAnswer
  dsimp only
  split
  · exact .refused (by simp [Status.accepts])
  · split
    · exact .refused (by simp [Status.accepts])
    · split
      · exact .status _ (small_le_maxBody (deviceStatus_length s).le)
      · rename_i c _
        exact .works (.ok_of_request (small_le_maxBody (channelStatus_length_le _ c)) (.clearOverflow c))
      · exact .reported (small_le_maxBody (letterStatus_length_le _))
      · exact .refused (by simp [Status.accepts])

theorem configureAnswer_cases (m : Message) (s : State) : s.Answer m (configureAnswer m s) := by
  unfold configureAnswer
  split
  · rename_i st h
    exact .refused (deviceChecks_refuses h)
  · rename_i h
    split
    · exact .refused (by simp [Status.accepts])
    · exact .configure _ _ (okOrClamped_accepts _) (small_le_maxBody (by simp [State.configValues])) (deviceChecks_done h)

theorem restartAnswer_cases (m : Message) (s : State) : s.Answer m (restartAnswer m s) := by
  unfold restartAnswer
  split
  · exact .refused (by simp [Status.accepts])
  · split
    · exact .refused (by simp [Status.accepts])
    · exact .restart _

theorem bindAnswer_cases (m : Message) (s : State) : s.Answer m (bindAnswer m s) := by
  unfold bindAnswer
  split
  · rename_i st h
    exact .refused (channelTarget_error h)
  · rename_i c h
    split
    · exact .refused (by simp [Status.accepts])
    · rename_i b hb
      split
      · exact .refused (by simp [Status.accepts])
      · split
        · exact .refused (by simp [Status.accepts])
        · rename_i rx
          split
          · exact .refused (by simp [Status.accepts])
          · rename_i tx
            exact .bind c b _ (small_le_maxBody (by simp)) (channelTarget_names h) (by simpa using rx) (by simpa using tx)

theorem feedAnswer_cases (m : Message) (s : State) : s.Answer m (feedAnswer m s) := by
  unfold feedAnswer
  split
  · rename_i st h
    exact .refused (channelTarget_error h)
  · rename_i c h
    have names := channelTarget_names h
    split
    · rename_i st hr
      exact .refused (Works.transcriptionRefusal_refuses hr)
    · rename_i hr
      obtain ⟨opened, plays⟩ := Works.transcriptionRefusal_eq_none hr
      split
      · exact .refused (by simp [Status.accepts])
      · rename_i rs hb
        split
        · rename_i st hf
          exact .refused (Works.feedRefusal_refuses hf)
        · rename_i hf
          obtain ⟨-, -, -, room⟩ := Works.feedRefusal_eq_none hf
          exact .feed c rs _ (small_le_maxBody (by simp)) names opened plays room

/-! ### The step -/

/-- What a command can do to the state. -/
inductive State.Next (s : State) : State → Prop
  | same : Next s s
  | idle : Next s s.idle
  | powerOn (straps : Straps) : Next s { s.startWith straps .powerOn with store := Store.blank }
  | held : Next s { s.dropInFlight with resetAsserted := true }
  | release (straps : Straps) : Next s { s.startWith straps .resetLine with resetAsserted := false }
  | loadingEnd (scan : s.works.startup = .loading) :
      Next s { s with works := { s.works with startup := .writing, defects := factoryDefects s.works.factory } }
  | writingEnd (scan : s.works.startup = .writing) :
      Next s { s with store := s.store.writePattern (s.works.defects.map Defect.slot),
                      works := { s.works with startup := .checking, checked := 0, scanBad := [] } }
  | check (got : ReadBack) (scan : s.works.startup = .checking) :
      Next s { s with works := s.works.check s.store got.errs s.lastCause got.upTo }
  | makeFull : Next s s.makeFull
  | makeKeep (done : s.works.startup = .done) : Next s s.makeKeep
  | receive (chars : List Byte) : Next s (s.receive chars)
  | framing : Next s { s with link := { s.link.discard with framing := sat8 s.link.framing, receiver := .hunting } }
  | lineBreak : Next s { s with link := s.link.beginBreak }
  | lineBreakEnd : Next s { s with link := { s.link with breakOn := false, receiver := .hunting } }
  | request (m : Message) (rest : List Message) (r : Reply) (t : State) (front : s.AtFront m rest)
      (answer : (s.taken rest).Answer m (r, t)) : Next s (t.placeReply m r)
  | sync (rx : List (Option Sample)) : Next s (s.syncOnce rx)
  | tick : Next s s.tickOnce
  | encoded (c i entry : Nat) (width : Width) (base : Sample) (w : WaitFrame)
      (job : s.works.job = some (.encode c i entry width base)) (served : (s.works.chan c).servedFrame = some w) :
      Next s (s.encoded c i entry width base w.samples)
  | stale (c : Nat) (source : JobSource) (entry : Nat) (side : Side) (generation : BitVec 16)
      (job : s.works.job = some (.decode c source entry side generation)) : Next s { s with works := s.works.decodeStale }
  | decoded (c : Nat) (source : JobSource) (entry : Nat) (side : Side) (generation : BitVec 16) (slot : Nat)
      (got : Option (List Byte)) (job : s.works.job = some (.decode c source entry side generation))
      (current : generation = (s.works.chan c).generation) (held : s.works.jobSlot c source entry = some slot) :
      Next s { s with works := s.works.decoded c source entry side slot got }

theorem State.carryOut_next {s t : State} {kind : Byte} {owner : Message → State → Reply × State}
    (cases : ∀ m rest, m.kind = kind → (s.taken rest).Answer m (owner m (s.taken rest)))
    (h : s.carryOut kind owner = .next t) : s.Next t := by
  rcases State.carryOut_cases s kind owner with same | ⟨m, rest, front, hk, asked⟩
  · rw [same] at h
    cases h
    exact .same
  · rw [asked] at h
    cases h
    exact .request m rest _ _ front (cases m rest hk)

theorem State.carryOut_works_next {s t : State} {kind : Byte} {owner : Message → Works → Reply × Works}
    (cases : ∀ m, m.kind = kind → s.works.Answer m (owner m s.works))
    (h : s.carryOut kind (onWorks owner) = .next t) : s.Next t :=
  State.carryOut_next (fun m rest hk => onWorks_cases (s.taken rest) (cases m hk)) h

theorem execReqUnknownKind_next {s t : State} (h : execReqUnknownKind s = .next t) : s.Next t := by
  unfold execReqUnknownKind at h
  split at h
  · cases h
    exact .same
  · rename_i m s1 taken
    obtain ⟨-, rest, front, rfl⟩ := State.takeRequest_some taken
    cases h
    exact .request m rest _ _ front (.refused (by simp [Status.accepts]))

theorem execReqTake_next {errs : List CellError} {s t : State} (h : execReqTake errs s = .next t) : s.Next t := by
  unfold execReqTake at h
  split at h
  · cases h
    exact .same
  · rename_i m s1 taken
    obtain ⟨-, rest, front, rfl⟩ := State.takeRequest_some taken
    split at h
    · simp at h
    · rename_i r k answer
      cases h
      exact .request m rest r _ front (.works (takeAnswer_cases answer))

theorem State.scanIn_startup {s : State} {st : Startup} (h : s.scanIn st = true) : s.works.startup = st :=
  ((s.scanIn_iff st).1 h).2

/-- A command that has an effect in one case and none otherwise. -/
theorem next_of_ite {s t t' : State} {p : Prop} [Decidable p]
    (h : (if p then Host.Outcome.next t' else .next s : Host.Outcome State Fault Refusal) = .next t)
    (effect : p → s.Next t') : s.Next t := by
  split at h
  · rename_i hp
    cases h
    exact effect hp
  · cases h
    exact .same

theorem next_of_ite_not {s t t' : State} {p : Prop} [Decidable p]
    (h : (if p then Host.Outcome.next s else .next t' : Host.Outcome State Fault Refusal) = .next t)
    (effect : s.Next t') : s.Next t := by
  split at h
  · cases h
    exact .same
  · cases h
    exact effect

theorem execRestartKeep_next {s t : State} (h : execRestartKeep s = .next t) : s.Next t := by
  unfold execRestartKeep at h
  split at h
  · split at h
    · rename_i done
      cases h
      exact .makeKeep done
    · cases h
      exact .makeFull
  · cases h
    exact .same

theorem execFrameBoundary_next {rx : List (Option Sample)} {s t : State} (h : execFrameBoundary rx s = .next t) :
    s.Next t := by
  unfold execFrameBoundary at h
  split at h
  · cases h
    exact .same
  · exact next_of_ite h fun _ => .sync rx

theorem execEncodeCompletion_next {s t : State} (h : execEncodeCompletion s = .next t) : s.Next t := by
  unfold execEncodeCompletion at h
  split at h
  · rename_i c i entry width base job
    split at h
    · rename_i w served
      cases h
      exact .encoded c i entry width base w job served
    · cases h
      exact .same
  · cases h
    exact .same

theorem execDecodeCompletion_next {errs : List CellError} {s t : State} (h : execDecodeCompletion errs s = .next t) :
    s.Next t := by
  unfold execDecodeCompletion at h
  split at h
  · rename_i c source entry side generation job
    split at h
    · cases h
      exact .stale c source entry side generation job
    · rename_i current
      split at h
      · cases h
        exact .stale c source entry side generation job
      · rename_i slot held
        split at h
        · simp at h
        · rename_i got _
          cases h
          exact .decoded c source entry side generation slot got job (by simpa using current) held
  · cases h
    exact .same

/-- What a command that answers a next state has done. -/
theorem exec_next {command : Instr} {s t : State} (h : exec command s = .next t) : s.Next t := by
  cases command with
  | powerOn straps => cases h; exact .powerOn straps
  | resetAsserted => cases h; exact .held
  | resetLine straps => cases h; exact .release straps
  | loadingEnd => exact next_of_ite h fun scan => .loadingEnd (State.scanIn_startup scan)
  | writingEnd => exact next_of_ite h fun scan => .writingEnd (State.scanIn_startup scan)
  | checkingEnd got => exact next_of_ite h fun scan => .check got (State.scanIn_startup scan)
  | framingError => exact next_of_ite h fun _ => .framing
  | lineBreak => exact next_of_ite_not h .lineBreak
  | lineBreakEnd => exact next_of_ite_not h .lineBreakEnd
  | messageReceived chars => cases h; exact .receive chars
  | leadByteReceived char => cases h; exact .receive [char]
  | messageLengthReceived low high => cases h; exact .receive [low, high]
  | reqUnknownKind => exact execReqUnknownKind_next h
  | reqIdentify => exact State.carryOut_next (fun m rest _ => identifyAnswer_cases m _) h
  | reqStatus => exact State.carryOut_next (fun m rest _ => statusAnswer_cases m _) h
  | reqConfigure => exact State.carryOut_next (fun m rest _ => configureAnswer_cases m _) h
  | reqRestart => exact State.carryOut_next (fun m rest _ => restartAnswer_cases m _) h
  | reqBind => exact State.carryOut_next (fun m rest _ => bindAnswer_cases m _) h
  | reqFeed => exact State.carryOut_next (fun m rest _ => feedAnswer_cases m _) h
  | reqTake errs => exact execReqTake_next h
  | reqPoll => exact State.carryOut_works_next (fun m _ => pollAnswer_cases m _) h
  | reqDefects => exact State.carryOut_works_next (fun m _ => defectsAnswer_cases m _) h
  | reqSet => exact State.carryOut_works_next (fun m _ => setAnswer_cases m _) h
  | reqOpen => exact State.carryOut_works_next (fun m _ => openAnswer_cases m _) h
  | reqAttach => exact State.carryOut_works_next (fun m _ => attachAnswer_cases m _) h
  | reqDetach => exact State.carryOut_works_next (fun m _ => detachAnswer_cases m _) h
  | reqEnd => exact State.carryOut_works_next (fun m _ => endAnswer_cases m _) h
  | reqDiscard => exact State.carryOut_works_next (fun m _ => discardAnswer_cases m _) h
  | reqTruncate => exact State.carryOut_works_next (fun m _ => truncateAnswer_cases m _) h
  | reqRecord => exact State.carryOut_works_next (fun m _ => recordAnswer_cases m _) h
  | reqStop => exact State.carryOut_works_next (fun m _ => stopAnswer_cases m _) h
  | reqWind => exact State.carryOut_works_next (fun m _ => windAnswer_cases m _) h
  | reqReview => exact State.carryOut_works_next (fun m _ => reviewAnswer_cases m _) h
  | reqMark => exact State.carryOut_works_next (fun m hk => markAnswer_cases hk _) h
  | reqUnmark => exact State.carryOut_works_next (fun m _ => unmarkAnswer_cases m _) h
  | reqMarklist => exact State.carryOut_works_next (fun m _ => marklistAnswer_cases m _) h
  | reqLoad => exact State.carryOut_works_next (fun m _ => loadAnswer_cases m _) h
  | reqUnload => exact State.carryOut_works_next (fun m _ => unloadAnswer_cases m _) h
  | reqPlay => exact State.carryOut_works_next (fun m _ => playAnswer_cases m _) h
  | reqHalt => exact State.carryOut_works_next (fun m _ => haltAnswer_cases m _) h
  | reqStep => exact State.carryOut_works_next (fun m _ => stepAnswer_cases m _) h
  | restartFull => exact next_of_ite h fun _ => .makeFull
  | restartKeep => exact execRestartKeep_next h
  | sync rx => exact next_of_ite_not h (.sync rx)
  | frameBoundary rx => exact execFrameBoundary_next h
  | encodeCompletion => exact execEncodeCompletion_next h
  | decodeCompletion errs => exact execDecodeCompletion_next h
  | referenceTick => exact next_of_ite_not h .tick
  | syncAbsence => exact next_of_ite h fun _ => .tick
  | windowEnd => exact next_of_ite h fun _ => .tick

/-- What a step has done to the state whose queue of commands has been taken care of. -/
theorem step_next {s t : State} (h : step s = .next t) : ∃ queue, ({ s with pending := queue } : State).Next t := by
  rcases step_cases s with ⟨-, hs⟩ | ⟨c, rest, -, hs⟩
  · rw [hs] at h
    cases h
    exact ⟨s.pending, .idle⟩
  · exact ⟨rest, exec_next (hs ▸ h)⟩

/-! ### The parts of the state that a step does not reach -/

theorem State.idle_store (s : State) : s.idle.store = s.store := by rw [State.idle_eq]
theorem State.idle_works (s : State) : s.idle.works = s.works := by rw [State.idle_eq]

theorem State.receive_eq (s : State) (chars : List Byte) :
    s.receive chars = { s with link := (s.receive chars).link } := by
  unfold State.receive
  split <;> rfl

/-- A reference tick reaches the monitor, the line port and the pending flags (R172 to R174). -/
theorem State.tickOnce_eq (s : State) :
    s.tickOnce =
      { s with monitor := s.tickOnce.monitor, line := s.tickOnce.line,
               works := { s.works with events := s.tickOnce.works.events } } := by
  have raised : ∀ (k : Works) kind d, k.raiseDevice kind d = { k with events := (k.raiseDevice kind d).events } :=
    fun k kind d => Works.raiseWith_eq k kind _ d _
  have judged : ∀ (k : Works) a b d, k.windowEvent a b d = { k with events := (k.windowEvent a b d).events } := by
    intro k a b d
    unfold Works.windowEvent
    split
    · rw [raised]
    · split
      · rw [raised]
      · rfl
  unfold State.tickOnce State.absence State.windowTick
  dsimp only
  split
  · split <;> rfl
  · split
    · split
      · rw [raised]
      · rfl
    · split
      · rw [judged]
      · rfl

/-! ### The contents of the slots -/

theorem State.Answer.store_wf {m : Message} {s t : State} {r : Reply} (h : s.Answer m (r, t)) (wf : s.store.wf = true) :
    t.store.wf = true := by
  cases h with
  | feed c rs => exact Store.wf_writeAll wf _
  | _ => exact wf

theorem State.Next.store_wf {s t : State} (h : s.Next t) (wf : s.store.wf = true) : t.store.wf = true := by
  cases h with
  | powerOn => exact Store.wf_blank
  | writingEnd => exact Store.wf_writePattern wf _
  | request m rest r t front answer => exact answer.store_wf (s := s.taken rest) wf
  | encoded => exact Store.wf_keep wf _ _
  | idle => rwa [State.idle_store]
  | receive => rwa [State.receive_eq]
  | tick => rwa [State.tickOnce_eq]
  | _ => exact wf

/-- Settles O54: the store changes at a power-on, at the end of WRITING, and by the writes of a FEED and of an ENCODE
completion, each of which leaves the canonical form. -/
theorem storeKeepsItsForm : Obligations.StoreKeepsItsForm := by
  intro s t wf h
  obtain ⟨queue, next⟩ := step_next h
  exact next.store_wf wf

end Sys2Proof.Machine

/-! PROOFS. Steps and starts: the order of commands, the values of reset and of every start (R14 to R194).

A start is one assignment of start values (`State.startWith`, `State.makeFull`), so what it leaves is read off its
definition; the values themselves are evaluated once, channel for channel and letter for letter, by what a replicated
list holds. -/

namespace Sys2Proof.Machine

/-! ### Steps -/

/-- Settles O1: the queue's front is the command carried out, on the queue's rest. -/
theorem stepTakesTheFrontCommand : Obligations.StepTakesTheFrontCommand := fun c s rest =>
  step_cons (s := { s with pending := c :: rest }) rfl

/-- Settles O2: an idle step drops the oldest byte of the transmit queue, unless the part is held. -/
theorem emptyQueueSendsOneByte : Obligations.EmptyQueueSendsOneByte := by
  intro s none_waits
  rw [step_nil none_waits, State.idle, List.drop_one]

/-! ### The values of a start -/

theorem Works.start_chans_eq {factory : List Nat} {draws : Nat} {ch : Channel}
    (h : ch ∈ (Works.start factory draws).chans) : ch = Channel.initial := List.eq_of_mem_replicate h

theorem Works.start_letters_eq {factory : List Nat} {draws : Nat} {l : Letter}
    (h : l ∈ (Works.start factory draws).letters) : l = Letter.freeRecord := List.eq_of_mem_replicate h

theorem getD_replicate {α : Type} (n c : Nat) (d : α) : (List.replicate n d).getD c d = d := by
  rw [List.getD_eq_getElem?_getD, List.getElem?_replicate]
  split <;> rfl

@[simp] theorem Works.start_chan (factory : List Nat) (draws c : Nat) :
    (Works.start factory draws).chan c = Channel.initial := getD_replicate _ c _

@[simp] theorem Works.start_letter (factory : List Nat) (draws i : Nat) :
    (Works.start factory draws).letter i = Letter.freeRecord := getD_replicate _ i _

@[simp] theorem Line.start_binding (c : Nat) : Line.start.binding c = Binding.unbound := getD_replicate _ c _

/-- Settles O3: each block of the reset state is its block of start values. -/
theorem resetHoldsTheStartValues : Obligations.ResetHoldsTheStartValues := by
  refine ⟨rfl, rfl, rfl, rfl, rfl, rfl, rfl, fun c _ => Line.start_binding c, rfl, rfl, rfl, rfl, ?_, rfl, ?_, rfl,
    rfl, rfl, rfl, rfl, rfl, rfl, rfl, rfl, rfl⟩
  · intro l hl
    rw [Works.start_letters_eq hl]
    rfl
  · intro ch hch
    rw [Works.start_chans_eq hch]
    exact ⟨rfl, rfl, rfl, rfl, rfl, rfl, rfl, rfl, rfl, rfl, rfl, rfl, rfl, rfl⟩

/-! ### Starts (R191, R193) -/

theorem exec_powerOn (p : Straps) (s : State) : exec (.powerOn p) s = execPowerOn p s := rfl
theorem exec_resetLine (p : Straps) (s : State) : exec (.resetLine p) s = execResetLine p s := rfl
theorem exec_resetAsserted (s : State) : exec .resetAsserted s = execResetAsserted s := rfl
theorem exec_restartFull (s : State) : exec .restartFull s = execRestartFull s := rfl
theorem exec_restartKeep (s : State) : exec .restartKeep s = execRestartKeep s := rfl

/-- ATTN is released while the part is held (R191). -/
theorem State.attn_of_held {s : State} (h : s.resetAsserted = true) : s.attn = false := by simp [State.attn, h]

/-- Settles O4: both starts assign the start values, and the assertion drops what is in flight. -/
theorem powerOnAndTheResetLine : Obligations.PowerOnAndTheResetLine := by
  refine ⟨fun p s => ⟨?_, ?_⟩, fun s => ⟨_, exec_resetAsserted s, State.attn_of_held rfl, rfl⟩⟩
  · rw [exec_powerOn, execPowerOn, State.startWith, LinkRate.ofStraps]
  · rw [exec_resetLine, execResetLine, State.startWith, LinkRate.ofStraps]

theorem State.restartTaken_of {s : State} {kind : RestartKind} (free : s.resetAsserted = false)
    (taken : s.link.restart = some kind) : s.restartTaken kind = true := by
  simp [State.restartTaken, free, taken]

/-- Settles O7: outside DONE both kinds of RESTART are made with the values of power-on. -/
theorem restartFullTakesTheStartValues : Obligations.RestartFullTakesTheStartValues := by
  intro s free t
  refine ⟨fun taken => ?_, fun taken not_done => ?_⟩
  · rw [exec_restartFull, execRestartFull, if_pos (State.restartTaken_of free taken)]
    rfl
  · rw [exec_restartKeep, execRestartKeep, if_pos (State.restartTaken_of free taken), if_neg not_done]
    rfl

/-- What RESTART KEEP does to a letter, as R59 gives it: its PENDING entries are settled, and it is released. -/
theorem Letter.restarted_eq (l : Letter) :
    l.restarted =
      { l with edit := l.edit.map fun e => if e.isPending then { e with body := .run .lost 1 } else e,
               channel := none, state := if l.state = .attached then .detached else l.state } := rfl

/-- Settles O8: with the scan DONE a RESTART KEEP is made as `Works.restarted`, and START_DONE is put into an empty
register. -/
theorem restartKeepKeepsTheLetters : Obligations.RestartKeepKeepsTheLetters := by
  intro s free taken scan_done queues pool free_entries
  rw [exec_restartKeep, execRestartKeep, if_pos (State.restartTaken_of free taken), if_pos scan_done, State.makeKeep,
    Works.raiseDevice, Works.raiseWith_done (k := s.works.restarted) scan_done]
  rfl

/-! ### Reset meets the invariants -/

theorem Works.start_heldSlots (factory : List Nat) (draws : Nat) : (Works.start factory draws).heldSlots = [] := by
  simp [Works.heldSlots, Works.start, Letter.slots, Letter.freeRecord, Channel.initial, slotsOf, feedSlotsOf]

theorem Channel.initial_sound : Channel.initial.Sound := by simp [Channel.Sound, Channel.initial]

theorem Letter.freeRecord_sound : Letter.freeRecord.Sound := by simp [Letter.Sound, Letter.freeRecord]

theorem Letter.freeRecord_inOrder : Letter.freeRecord.InOrder := by
  simp [Letter.InOrder, Letter.freeRecord, spanOf]

theorem Works.start_eventsOrdered (factory : List Nat) (draws : Nat) : (Works.start factory draws).EventsOrdered :=
  List.Pairwise.nil

theorem Works.start_accounted (factory : List Nat) (draws : Nat) : (Works.start factory draws).Accounted := by
  refine ⟨rfl, rfl, ?_, ?_, ?_, ?_, ?_⟩
  · intro ch hch
    rw [Works.start_chans_eq hch]
    exact Channel.initial_sound
  · intro l hl
    rw [Works.start_letters_eq hl]
    exact Letter.freeRecord_sound
  · intro c i _
    simp [Channel.initial, Letter.freeRecord]
  · intro j hj
    cases hj
  · simp [Works.EntriesAddUp, Works.start, Works.letterEntries, Works.feedEntries, Letter.entryCount,
      Letter.freeRecord, Channel.initial]

theorem Works.start_waitFrames (factory : List Nat) (draws : Nat) : (Works.start factory draws).waitFrames = [] := by
  simp [Works.waitFrames, Works.start, Channel.initial]

theorem Works.start_editIds (factory : List Nat) (draws : Nat) : (Works.start factory draws).editIds = [] := by
  simp [Works.editIds, Works.start, Letter.freeRecord]

theorem Works.start_lettersInOrder (factory : List Nat) (draws : Nat) :
    (Works.start factory draws).LettersInOrder := by
  refine ⟨?_, ?_, ?_, ?_, ?_, ?_, ?_⟩
  · intro l hl
    rw [Works.start_letters_eq hl]
    exact Letter.freeRecord_inOrder
  · rw [Works.start_editIds]
    exact List.nodup_nil
  · rw [Works.start_editIds]
    exact fun id h => absurd h List.not_mem_nil
  · intro ch hch
    rw [Works.start_chans_eq hch]
    exact ⟨⟨fun _ => rfl, fun i before e after letter => (nomatch letter)⟩, fun reviewing => (nomatch reviewing)⟩
  · rw [Works.start_waitFrames]
    exact fun w h => absurd h List.not_mem_nil
  · rw [Works.start_waitFrames]
    exact List.nodup_nil
  · intro c i entry width base job
    cases job

/-- A start adds up: no slot is placed, and outside DONE none need be. -/
theorem Works.start_slotsAddUp {factory : List Nat} (draws : Nat) (rising : factory.Pairwise (· < ·))
    (exist : ∀ n ∈ factory, n < Config.slotCount) : (Works.start factory draws).SlotsAddUp := by
  have nothing_placed : (Works.start factory draws).placedSlots = [] := by
    rw [Works.placedSlots, Works.start_heldSlots]
    rfl
  refine ⟨?_, ?_, fun scan_done => (nomatch scan_done), fun _ => ⟨rfl, Works.start_heldSlots factory draws⟩, rising,
    exist, ⟨fun _ => rfl, fun checking => (nomatch checking)⟩, ?_,
    fun c i entry width base job => (nomatch job)⟩
  · rw [nothing_placed]
    exact List.nodup_nil
  · rw [nothing_placed]
    exact fun n h => absurd h List.not_mem_nil
  · intro ch hch
    rw [Works.start_chans_eq hch]
    exact ⟨⟨fun captures => absurd rfl captures, fun w h => absurd h List.not_mem_nil⟩,
      List.nodup_nil, fun r h => absurd h List.not_mem_nil⟩

theorem Works.start_tablesFit {factory : List Nat} (draws : Nat) (h : factory.length ≤ 32) :
    (Works.start factory draws).TablesFit := by
  refine ⟨h, Nat.zero_le _, fun l hl => ?_⟩
  rw [Works.start_letters_eq hl]
  exact Nat.zero_le _

theorem Line.start_exclusive : Line.start.Exclusive := by
  intro c d slot _ _ _
  simp [Binding.unbound]

theorem Link.start_countsFit (rate : LinkRate) : (Link.start rate).CountsFit := by simp [Link.CountsFit, Link.start]

theorem Link.start_queuesFit (rate : LinkRate) : (Link.start rate).QueuesFit := by
  refine ⟨Nat.zero_le _, Nat.zero_le _, fun left got ovr h => ?_⟩
  cases h

theorem Monitor.start_sound {tolerance : Nat} (h : tolerance ≤ 40) : (Monitor.start tolerance).Sound := by
  simp [Monitor.Sound, Monitor.start, h]

/-- Settles O60: reset is a start with an empty factory list, and every start meets the invariants. -/
theorem resetMeetsTheInvariants : Obligations.ResetMeetsTheInvariants :=
  ⟨State.reset_wf, Line.start_exclusive, Link.start_countsFit _, Nat.zero_lt_succ 159, Monitor.start_sound (by decide),
    Works.start_eventsOrdered _ _, fun _ => rfl, Works.start_accounted _ _, Works.start_lettersInOrder _ _,
    Works.start_slotsAddUp _ List.Pairwise.nil (fun n h => absurd h List.not_mem_nil), Link.start_queuesFit _,
    Works.start_tablesFit _ (Nat.zero_le _)⟩

end Sys2Proof.Machine

/-! PROOFS. The receiver of the control link (11_control_link_requests_and_events.md, R178, R179).

Characters reach the receiver one after the other, so the statements about several of them are inductions on the
characters that are still wanted (`Link.foldl_char_collecting`). -/

namespace Sys2Proof.Machine

/-! ### Which characters reach the receiver (R179, R188, R191) -/

theorem exec_leadByteReceived (b : Byte) (s : State) : exec (.leadByteReceived b) s = .next (s.receive [b]) := rfl
theorem exec_messageLengthReceived (low high : Byte) (s : State) :
    exec (.messageLengthReceived low high) s = .next (s.receive [low, high]) := rfl
theorem exec_messageReceived (chars : List Byte) (s : State) :
    exec (.messageReceived chars) s = .next (s.receive chars) := rfl
theorem exec_framingError (s : State) : exec .framingError s = execFramingError s := rfl
theorem exec_lineBreak (s : State) : exec .lineBreak s = execLineBreak s := rfl
theorem exec_lineBreakEnd (s : State) : exec .lineBreakEnd s = execLineBreakEnd s := rfl

theorem State.listening_iff (s : State) :
    s.listening = true ↔ s.resetAsserted = false ∧ s.link.restart = none ∧ s.link.breakOn = false := by
  simp [State.listening, and_assoc]

theorem State.receive_of_listening {s : State} (h : s.listening = true) (chars : List Byte) :
    s.receive chars = { s with link := chars.foldl Link.char s.link } := if_pos h

theorem State.receive_of_deaf {s : State} (h : ¬s.listening = true) (chars : List Byte) : s.receive chars = s :=
  if_neg h

theorem execFramingError_of_deaf {s : State} (h : ¬s.listening = true) : execFramingError s = .next s := if_neg h

/-! ### One character (R178) -/

theorem Link.char_hunting {l : Link} (h : l.receiver = .hunting) (b : Byte) :
    l.char b = { l with receiver := if b = 0xD7#8 then .lengthBytes [] else .hunting } := by
  unfold Link.char
  rw [h]
  by_cases lead : b = 0xD7#8
  · simp [lead]
  · cases l
    simp_all

theorem Link.foldl_char_length {l : Link} (h : l.receiver = .lengthBytes []) (low high : Byte) :
    [low, high].foldl Link.char l = { l with receiver := .lengthBytes [low] }.checkLength (leValue [low, high]) := by
  simp [Link.char, h]

/-- With nothing reserved, the free space is what the messages of the queue leave (R179). -/
theorem Link.rxFree_of_lengthBytes {l : Link} {got : List Byte} (h : l.receiver = .lengthBytes got) :
    l.rxFree = 4096 - (l.rx.map fun m => 6 + m.body.length).sum := by
  simp only [Link.rxFree, h, Receiver.reserved, Nat.add_zero, Config.rxBytes]
  rfl

/-- A character that others are still to follow is kept, unless the message is a receive overrun (R178, R179). -/
theorem Link.char_unfinished {l : Link} {left : Nat} {got : List Byte} {ovr : Bool} (more : 0 < left)
    (h : l.receiver = .collecting (left + 1) got ovr) (b : Byte) :
    l.char b = { l with receiver := .collecting left (if ovr then got else b :: got) ovr } := by
  have unfinished : ¬left + 1 ≤ 1 := by omega
  simp only [Link.char, h, Link.collect, if_neg unfinished, Nat.add_sub_cancel]

/-- The last of the characters wanted completes the message (R178). -/
theorem Link.foldl_char_collecting {chars : List Byte} (some_left : chars ≠ []) {l : Link} {got : List Byte}
    (h : l.receiver = .collecting chars.length got false) :
    chars.foldl Link.char l = l.complete (got.reverse ++ chars) := by
  induction chars generalizing l got with
  | nil => exact absurd rfl some_left
  | cons b more ih =>
    by_cases last : more = []
    · subst last
      simp [Link.char, Link.collect, h]
    · rw [List.foldl_cons, Link.char_unfinished (List.length_pos_of_ne_nil last) h, ih last rfl]
      simp [Link.complete]

/-- The last of the characters of a receive overrun ends it (R179). -/
theorem Link.foldl_char_overrun {chars : List Byte} (some_left : chars ≠ []) {l : Link} {got : List Byte}
    (h : l.receiver = .collecting chars.length got true) :
    chars.foldl Link.char l = { l with receiver := .hunting } := by
  induction chars generalizing l with
  | nil => exact absurd rfl some_left
  | cons b more ih =>
    by_cases last : more = []
    · subst last
      simp [Link.char, Link.collect, h]
    · rw [List.foldl_cons, Link.char_unfinished (List.length_pos_of_ne_nil last) h, ih last rfl]

/-- Settles O9: each of the three commands is the fold of the receiver over its characters, and a part that does not
listen is left as it is. -/
theorem receiverAssemblesMessages : Obligations.ReceiverAssemblesMessages := by
  constructor
  · intro s free none_taken line_high
    have listens : s.listening = true := s.listening_iff.2 ⟨free, none_taken, line_high⟩
    refine ⟨fun b hunting => ?_, fun low high wants_length => ?_, fun chars got kind target tag body some_left wants all => ?_,
      fun chars got some_left wants => ?_⟩
    · rw [exec_leadByteReceived, State.receive_of_listening listens, List.foldl_cons, List.foldl_nil,
        Link.char_hunting hunting]
    · have value : leValue [low, high] = low.toNat + 256 * high.toNat := by simp [leValue]
      rw [exec_messageLengthReceived, State.receive_of_listening listens, Link.foldl_char_length wants_length,
        Link.checkLength, Link.rxFree_of_lengthBytes (got := [low]) rfl, value]
      rfl
    · rw [exec_messageReceived, State.receive_of_listening listens, Link.foldl_char_collecting some_left wants, all]
      rfl
    · rw [exec_messageReceived, State.receive_of_listening listens, Link.foldl_char_overrun some_left wants]
  · intro s held_or_taken
    have deaf : ¬s.listening = true := by
      rw [State.listening_iff]
      rintro ⟨free, none_taken, -⟩
      rcases held_or_taken with held | taken
      · rw [held] at free
        cases free
      · exact taken none_taken
    refine ⟨fun b => ?_, fun low high => ?_, fun chars => ?_, ?_⟩
    · rw [exec_leadByteReceived, State.receive_of_deaf deaf]
    · rw [exec_messageLengthReceived, State.receive_of_deaf deaf]
    · rw [exec_messageReceived, State.receive_of_deaf deaf]
    · rw [exec_framingError, execFramingError_of_deaf deaf]

/-! ### Faults on the link (R179) -/

/-- A fault counts the message being assembled as discarded, unless a receive overrun has counted it (R179). -/
theorem Link.discard_discarded (l : Link) :
    l.discard.discarded =
      match l.receiver with
      | .lengthBytes _ => min (l.discarded + 1) 255
      | .collecting _ _ false => min (l.discarded + 1) 255
      | _ => l.discarded := by
  unfold Link.discard
  cases hr : l.receiver with
  | hunting => rfl
  | lengthBytes got => rfl
  | collecting left got ovr => cases ovr <;> rfl
  | brokenOff => rfl

theorem Link.discard_eq (l : Link) : l.discard = { l with discarded := l.discard.discarded } := rfl

/-- Settles O10: a fault is one update of the link, made when the part is in the state to hear it. -/
theorem linkFaultsDiscardTheMessage : Obligations.LinkFaultsDiscardTheMessage := by
  intro s free discarded
  have counted : s.link.discard.discarded = discarded := s.link.discard_discarded
  refine ⟨fun none_taken line_high => ?_, fun line_high => ?_, fun line_low => ?_⟩
  · rw [exec_framingError, execFramingError, if_pos (s.listening_iff.2 ⟨free, none_taken, line_high⟩),
      Link.discard_eq, counted, sat8]
  · rw [exec_lineBreak, execLineBreak, if_neg (by simp [free, line_high]), Link.beginBreak, Link.discard_eq, counted]
  · rw [exec_lineBreakEnd, execLineBreakEnd, if_neg (by simp [free, line_low])]

end Sys2Proof.Machine

/-! PROOFS. The device requests (11_control_link_requests_and_events.md): STATUS, CONFIGURE, POLL, DEFECTS, RESTART, and
the refusals that come before a request is looked at.

Each owner is evaluated once under what its checks ask (`statusAnswer_device`, `pollAnswer_some`, …); the statements then
are `State.carryOut_front` or `State.carryOut_works` with that value. -/

namespace Sys2Proof.Machine

/-! ### A request answered -/

theorem State.taken_placeReply (s : State) (m : Message) (rest : List Message) (r : Reply) :
    (s.taken rest).placeReply m r = s.answered m rest r s.works := by
  simp only [State.placeReply, State.answered, State.taken]

/-- Two answers are the same when their replies and the works they leave are. -/
theorem next_answered_congr {s : State} {m : Message} {rest : List Message} {r r' : Reply} {k k' : Works} (hr : r = r')
    (hk : k = k') :
    (Host.Outcome.next (s.answered m rest r k) : Host.Outcome State Fault Refusal) =
      .next (s.answered m rest r' k') := by rw [hr, hk]

/-! ### UNKNOWN_KIND (R181) -/

theorem exec_reqUnknownKind (s : State) : exec .reqUnknownKind s = execReqUnknownKind s := rfl

/-- Settles O11: a kind outside the table is the one kind that the command wants, and the refusal keeps the works. -/
theorem unknownKindIsRefused : Obligations.UnknownKindIsRefused := by
  intro s m rest front unknown
  have wanted : (!isKnownKind m.kind) = true := by simpa [isKnownKind] using unknown
  rw [exec_reqUnknownKind, execReqUnknownKind,
    State.takeRequest_front front (wanted := fun b => !isKnownKind b) wanted]
  simp only [State.taken_placeReply, refuse]

/-! ### DEFECTS (R121) -/

theorem exec_reqDefects (s : State) : exec .reqDefects s = s.carryOut 0x05#8 (onWorks defectsAnswer) := rfl

theorem defectsAnswer_of_device {m : Message} (k : Works) (target : targetOf m.target = .device)
    (no_body : m.body = []) : defectsAnswer m k = (⟨.ok, k.defectsBody⟩, k) := by
  have passes : deviceChecks false m k (lengthIs 0) = none :=
    deviceChecks_ungated_ok k target (by simp [lengthIs, no_body])
  simp [defectsAnswer, passes]

/-- Settles O16: the checks pass in every state of the part, and the owner hands the works back unchanged. -/
theorem defectsReportsTheTable : Obligations.DefectsReportsTheTable := by
  intro s m rest front of_kind device no_body
  have target : targetOf m.target = .device := by rw [device, targetOf_device]
  rw [exec_reqDefects, State.carryOut_works front of_kind, defectsAnswer_of_device s.works target no_body]
  exact next_answered_congr rfl rfl

/-! ### RESTART (R192) -/

theorem exec_reqRestart (s : State) : exec .reqRestart s = s.carryOut 0x06#8 restartAnswer := rfl

theorem restartKindOf_code (kind : RestartKind) :
    restartKindOf [if kind = .full then 1#8 else 2#8] = some kind := by
  cases kind <;> decide

/-- Settles O17: the owner checks the target and the kind only, and records the RESTART. -/
theorem restartIsTaken : Obligations.RestartIsTaken := by
  intro s m rest front of_kind device kind body
  have target : targetOf m.target = .device := by rw [device, targetOf_device]
  have answer : restartAnswer m (s.taken rest) = (⟨.ok, []⟩, (s.taken rest).takeRestart kind) := by
    simp [restartAnswer, target, body, restartKindOf_code]
  rw [exec_reqRestart, State.carryOut_front front of_kind, answer]
  simp only [State.placeReply, State.taken, State.takeRestart]

/-! ### STATUS (R183) -/

theorem exec_reqStatus (s : State) : exec .reqStatus s = s.carryOut 0x02#8 statusAnswer := rfl

theorem statusAnswer_device {m : Message} (s : State) (target : targetOf m.target = .device) (no_body : m.body = []) :
    statusAnswer m s = (⟨.ok, s.deviceStatus⟩, s.clearReported) := by
  simp [statusAnswer, target, no_body]

theorem statusAnswer_channel {m : Message} {c : Nat} (s : State) (target : targetOf m.target = .channel c)
    (no_body : m.body = []) :
    statusAnswer m s = (⟨.ok, s.works.channelStatus c⟩, { s with works := s.works.clearOverflow c }) := by
  simp [statusAnswer, target, no_body]

theorem statusAnswer_letter {m : Message} {i : Nat} (s : State) (target : targetOf m.target = .letter i)
    (no_body : m.body = []) : statusAnswer m s = (⟨.ok, letterStatus (s.works.letter i)⟩, s) := by
  simp [statusAnswer, target, no_body]

theorem State.deviceStatus_length (s : State) : s.deviceStatus.length = 27 := by simp [State.deviceStatus, twoFlags]

/-- A STATUS of a channel leaves the works as `Works.clearOverflow` does. -/
theorem exec_reqStatus_channel {s : State} {m : Message} {rest : List Message} {c : Nat} (front : s.AtFront m rest)
    (of_kind : m.kind = 0x02#8) (target : targetOf m.target = .channel c) (no_body : m.body = []) :
    exec .reqStatus s =
      .next (s.answered m rest ⟨.ok, s.works.channelStatus c⟩ (s.works.clearOverflow c)) := by
  rw [exec_reqStatus, State.carryOut_front front of_kind, statusAnswer_channel (s.taken rest) target no_body]
  simp only [State.placeReply, State.answered, State.taken]

theorem Works.clearOverflow_dictation {k : Works} {c i : Nat} (kind : (k.chan c).kind = .dictation)
    (letter : (k.chan c).letter = some i) :
    k.clearOverflow c = { k with letters := k.letters.set i { k.letter i with overflow := false } } := by
  simp [Works.clearOverflow, kind, letter, Works.modLetter]

theorem Works.clearOverflow_other {k : Works} {c : Nat} (kind : (k.chan c).kind ≠ .dictation) :
    k.clearOverflow c = k := by
  unfold Works.clearOverflow
  split
  · rename_i dictation _
    exact absurd dictation kind
  · rfl

/-- A position of a transcription STATUS is 0 while the expected position is absent (R189). -/
theorem Channel.statusPos_eq (ch : Channel) (p : Option Nat) :
    ch.statusPos p = byte3 (if ch.expected = none then 0 else p.getD 0) := by
  cases h : ch.expected <;> simp [Channel.statusPos, posOrZero, h]

theorem Works.channelStatus_noKind {k : Works} {c : Nat} (kind : (k.chan c).kind = .noKind) :
    k.channelStatus c = byte1 0 ++ byte1 (k.chan c).state.code := by
  simp [Works.channelStatus, kind, ChanKind.code]

theorem Works.channelStatus_dictation {k : Works} {c i : Nat} (kind : (k.chan c).kind = .dictation)
    (letter : (k.chan c).letter = some i) : k.channelStatus c = dictationStatus (k.chan c) (k.letter i) := by
  simp [Works.channelStatus, Works.letterOf, kind, letter]

theorem Works.channelStatus_transcription {k : Works} {c : Nat} (kind : (k.chan c).kind = .transcription) :
    k.channelStatus c = transcriptionStatus (k.chan c) := by
  simp [Works.channelStatus, kind]

/-- Settles O13: each form of the target has its own report, and only the device's and a dictation channel's clear
anything. -/
theorem statusReportsAndClears : Obligations.StatusReportsAndClears := by
  intro s m rest front of_kind no_body flag flags index
  refine ⟨fun device => ?_, fun c target => ?_, fun i target => ?_⟩
  · have target : targetOf m.target = .device := by rw [device, targetOf_device]
    intro k n body
    have report : (s.taken rest).deviceStatus = body := rfl
    refine ⟨by rw [← report, State.deviceStatus_length], ?_⟩
    rw [exec_reqStatus, State.carryOut_front front of_kind, statusAnswer_device (s.taken rest) target no_body, report]
    simp only [State.placeReply, State.taken, State.clearReported]
  · intro ch
    have answer := exec_reqStatus_channel front of_kind target no_body
    refine ⟨fun i kind letter => ?_, fun kind => ?_, fun kind => ?_⟩
    · have report : s.works.channelStatus c = dictationStatus ch (s.works.letter i) :=
        Works.channelStatus_dictation kind letter
      rw [answer, report, dictationStatus, kind, letter, Works.clearOverflow_dictation kind letter]
      exact next_answered_congr rfl rfl
    · intro start pos damaged
      rw [answer, Works.channelStatus_transcription kind, Works.clearOverflow_other (by rw [kind]; decide)]
      refine next_answered_congr ?_ rfl
      simp only [transcriptionStatus, Channel.statusPos_eq, show (s.works.chan c).kind = .transcription from kind]
      rfl
    · rw [answer, Works.channelStatus_noKind kind, Works.clearOverflow_other (by rw [kind]; decide)]
  · intro l entries
    have slots : l.slots = entries.filterMap Entry.slot := List.filterMap_append.symm
    have report : letterStatus l =
        if l.state = .free then byte1 0 else
          byte1 l.state.code ++ byte4 l.job ++ [index l.channel] ++ byte3 l.cursor ++ byte3 l.sealB ++
            byte3 l.length ++ byte2 l.squeezed ++ byte1 l.marks.length ++ byte2 l.edit.length ++
            byte2 l.sealedList.length ++ byte2 (entries.filterMap Entry.slot).length ++ [flag l.overflow] := by
      rw [letterStatus, slots]
      split
      · rename_i free
        rw [free]
        rfl
      · rfl
    rw [exec_reqStatus, State.carryOut_unchanged front of_kind (statusAnswer_letter (s.taken rest) target no_body)]
    exact next_answered_congr (congrArg (Reply.mk .ok) report) rfl

/-! ### CONFIGURE (R130, R175, R184) -/

theorem exec_reqConfigure (s : State) : exec .reqConfigure s = s.carryOut 0x03#8 configureAnswer := rfl

theorem configureAnswer_of_body {m : Message} {s : State} {cfg : Configured} (scan_done : s.works.startup = .done)
    (target : targetOf m.target = .device) (body : configBody m.body = some cfg) :
    configureAnswer m s = (⟨okOrClamped cfg.clamped, (s.configure cfg).configValues⟩, s.configure cfg) := by
  simp [configureAnswer, deviceChecks_ok (fits := fun _ => true) scan_done target rfl, body]

theorem Works.loadMask_eq (k : Works) (mask : Option (BitVec 32)) :
    k.loadMask mask = { k with mask := mask.getD k.mask } := by
  cases mask <;> rfl

theorem Monitor.loadTolerance_eq (n : Monitor) (tolerance : Option Nat) :
    n.loadTolerance tolerance =
      { n with tolerance := (tolerance.map fun v => min v 40).getD n.tolerance } := by
  cases tolerance <;> rfl

/-- A slot low mark that is carried is armed and compared at once (R130). -/
theorem Works.loadSlotMark_eq {k : Works} (scan_done : k.startup = .done) (carried : Option Nat) :
    let mark := (carried.map fun v => min v 4096).getD k.slotMark
    let low := carried.isSome && decide (k.freePool.length < mark)
    k.loadSlotMark carried =
      { k with
        slotMark := mark, slotArmed := if carried.isSome then !low else k.slotArmed,
        events := if low then putEvent ⟨.slotsLow, 255, 0, 0⟩ k.events else k.events } := by
  cases carried with
  | none => rfl
  | some v =>
    by_cases low : k.freePool.length < min v 4096
    · simp [Works.loadSlotMark, Works.setSlotMark, Works.slotsTaken, Works.raiseDevice, Works.raiseWith, scan_done, low,
        deviceChan]
    · simp [Works.loadSlotMark, Works.setSlotMark, Works.slotsTaken, low]

/-- The same for an entry low mark (R130). -/
theorem Works.loadEntryMark_eq {k : Works} (scan_done : k.startup = .done) (carried : Option Nat) :
    let mark := (carried.map fun v => min v 4096).getD k.entryMark
    let low := carried.isSome && decide (k.freeEntries < mark)
    k.loadEntryMark carried =
      { k with
        entryMark := mark, entryArmed := if carried.isSome then !low else k.entryArmed,
        events := if low then putEvent ⟨.entriesLow, 255, 0, 0⟩ k.events else k.events } := by
  cases carried with
  | none => rfl
  | some v =>
    by_cases low : k.freeEntries < min v 4096
    · simp [Works.loadEntryMark, Works.setEntryMark, Works.entriesTaken, Works.raiseDevice, Works.raiseWith, scan_done,
        low, deviceChan]
    · simp [Works.loadEntryMark, Works.setEntryMark, Works.entriesTaken, low]

theorem Configured.clamped_eq (cfg : Configured) :
    cfg.clamped = (cfg.tolerance.any (40 < ·) || cfg.slotMark.any (4096 < ·) || cfg.entryMark.any (4096 < ·)) := rfl

/-- Settles O14: each field carried is loaded by its own operation, in the order mask, tolerance, slot low mark, entry low
mark, and none of them touches what another loads. -/
theorem configureLoadsItsFields : Obligations.ConfigureLoadsItsFields := by
  intro s m rest cfg front ⟨of_kind, target, scan_done⟩ body
  have done' : (s.taken rest).works.startup = .done := scan_done
  rw [exec_reqConfigure, State.carryOut_front front of_kind, configureAnswer_of_body done' target body]
  simp only [State.configure, State.taken, Works.loadMask_eq, Monitor.loadTolerance_eq]
  rw [Works.loadSlotMark_eq (k := { s.works with mask := cfg.mask.getD s.works.mask }) scan_done,
    Works.loadEntryMark_eq (by exact scan_done)]
  simp only [Configured.clamped_eq, State.placeReply, State.configValues, okOrClamped]
  rfl

/-! ### POLL (R185, R187) -/

theorem exec_reqPoll (s : State) : exec .reqPoll s = s.carryOut 0x04#8 (onWorks pollAnswer) := rfl

theorem pollChecks_ok {m : Message} {k : Works} (scan_done : k.startup = .done) (target : targetOf m.target = .device)
    (no_body : m.body = []) : deviceChecks true m k (lengthIs 0) = none :=
  deviceChecks_ok scan_done target (by simp [lengthIs, no_body])

theorem pollAnswer_some {m : Message} {k : Works} {e : Event} (passes : deviceChecks true m k (lengthIs 0) = none)
    (urgent : k.mostUrgent = some e) : pollAnswer m k = (⟨.ok, k.eventBody e⟩, k.clearEvent e) := by
  simp [pollAnswer, passes, urgent]

theorem pollAnswer_none {m : Message} {k : Works} (passes : deviceChecks true m k (lengthIs 0) = none)
    (urgent : k.mostUrgent = none) : pollAnswer m k = (⟨.ok, noneBody⟩, k) := by
  simp [pollAnswer, passes, urgent]

theorem find?_append_cons {α : Type} {p : α → Bool} {before : List α} {x : α} (after : List α)
    (passed : ∀ y ∈ before, p y = false) (found : p x = true) : (before ++ x :: after).find? p = some x := by
  rw [List.find?_append, List.find?_eq_none.2 fun y hy => by simp [passed y hy]]
  simp [found]

/-- In POLL order no other flag has the key of one, so clearing a key clears one flag. -/
theorem filter_key_ne {before after : List Event} {e : Event}
    (h : (before ++ e :: after).Pairwise fun f g => f.key < g.key) :
    (before ++ e :: after).filter (fun f => decide (f.key ≠ e.key)) = before ++ after := by
  obtain ⟨-, later, earlier⟩ := List.pairwise_append.1 h
  have keep_before : before.filter (fun f => decide (f.key ≠ e.key)) = before :=
    List.filter_eq_self.2 fun f hf => decide_eq_true (earlier f hf e List.mem_cons_self).ne
  have keep_after : after.filter (fun f => decide (f.key ≠ e.key)) = after :=
    List.filter_eq_self.2 fun f hf => decide_eq_true ((List.pairwise_cons.1 later).1 f hf).ne'
  rw [List.filter_append, List.filter_cons_of_neg (by simp), keep_before, keep_after]

/-- The unplayed positions, as FEED_LOW reports them (R142, log 12). -/
theorem Works.feedLowDetail_eq (k : Works) (c : Nat) :
    k.feedLowDetail c =
      if (k.chan c).expected.isSome && (k.chan c).playPoint.isSome then
        BitVec.ofNat 32 ((k.chan c).expected.getD 0 - (k.chan c).playPoint.getD 0)
      else Config.unplayedWithoutMeaning k.freeDraws := by
  unfold Works.feedLowDetail Channel.unplayed
  cases (k.chan c).expected <;> cases (k.chan c).playPoint <;> rfl

theorem Works.drawsFree_iff (k : Works) (e : Event) :
    k.drawsFree e = true ↔
      e.kind = .feedLow ∧ ((k.chan e.chan).expected.isSome && (k.chan e.chan).playPoint.isSome) = false := by
  unfold Works.drawsFree Channel.unplayed
  cases (k.chan e.chan).expected <;> cases (k.chan e.chan).playPoint <;> simp

/-- Settles O15: POLL's search finds the first enabled flag; in POLL order its key is no other flag's. -/
theorem pollDeliversTheFirstEnabledEvent : Obligations.PollDeliversTheFirstEnabledEvent := by
  intro s m rest front ⟨of_kind, target, scan_done⟩ no_body
  have passes := pollChecks_ok scan_done target no_body
  have carried := State.carryOut_works front of_kind pollAnswer
  rw [← exec_reqPoll] at carried
  constructor
  · intro before after e ordered pending masked enabled ch fed detail
    have urgent : s.works.mostUrgent = some e := by
      rw [Works.mostUrgent, pending]
      exact find?_append_cons after masked enabled
    have cleared : s.works.clearEvent e =
        { s.works with
          events := before ++ after,
          freeDraws := if e.kind = .feedLow ∧ fed = false then s.works.freeDraws + 1 else s.works.freeDraws } := by
      have ordered' := ordered
      rw [Works.EventsOrdered, pending] at ordered'
      simp only [Works.clearEvent, pending, filter_key_ne ordered', Works.drawsFree_iff]
      rfl
    have read : s.works.pollDetail e = detail := by
      unfold Works.pollDetail
      rw [Works.feedLowDetail_eq] <;> rfl
    rw [carried, pollAnswer_some passes urgent, cleared, Works.eventBody, read]
  · intro all_masked
    have nothing : s.works.mostUrgent = none := by
      rw [Works.mostUrgent, List.find?_eq_none]
      intro f hf
      simp [Works.enabled, all_masked f hf]
    rw [carried, pollAnswer_none passes nothing]
    exact next_answered_congr rfl rfl

/-! ### Refusals during start-up (R181) -/

theorem Works.startCheck_of_not_done {k : Works} (h : k.startup ≠ .done) :
    k.startCheck = some (if k.startup = .failed then .faulted else .starting) := by
  unfold Works.startCheck
  cases hs : k.startup <;> simp_all

section
variable {m : Message} {k : Works} {st : Status} (h : k.startCheck = some st)
include h

theorem deviceChecks_starting (fits : Nat → Bool) : deviceChecks true m k fits = some st := by simp [deviceChecks, h]

theorem channelTarget_starting : channelTarget m k = .error st := by simp [channelTarget, h]

theorem channelTargetSized_starting (len : Nat) : channelTargetSized m k len = .error st := by
  simp [channelTargetSized, channelTarget_starting h]

theorem openChecks_starting : openChecks m k = .error st := by simp [openChecks, channelTargetSized_starting h]

theorem readyChecks_starting : readyChecks m k = .error st := by simp [readyChecks, channelTargetSized_starting h]

theorem dictationChecks_starting : dictationChecks m k = .error st := by
  simp [dictationChecks, channelTarget_starting h]

theorem discardAnswer_starting : discardAnswer m k = (refuse st, k) := by
  unfold discardAnswer
  split
  · simp [discardByJob, deviceChecks_starting h]
  · simp [discardByChannel, readyChecks_starting h]

end

/-- A request whose owner refuses it at the start-up check changes nothing but the two queues. -/
theorem State.carryOut_starting {s : State} {m : Message} {rest : List Message} (front : s.AtFront m rest) {kind : Byte}
    (of_kind : m.kind = kind) {owner : Message → Works → Reply × Works} {st : Status}
    (refuses : owner m s.works = (refuse st, s.works)) :
    s.carryOut kind (onWorks owner) = .next (s.answered m rest ⟨st, []⟩ s.works) := by
  rw [State.carryOut_works front of_kind, refuses]
  exact next_answered_congr rfl rfl

theorem exec_reqTake (errs : List CellError) (s : State) : exec (.reqTake errs) s = execReqTake errs s := rfl

/-- TAKE has an owner of its own form, since the read of a slot can fault (log 10). -/
theorem exec_reqTake_starting {s : State} {m : Message} {rest : List Message} (front : s.AtFront m rest)
    (of_kind : m.kind = 0x30#8) {st : Status} (h : s.works.startCheck = some st) (errs : List CellError) :
    exec (.reqTake errs) s = .next (s.answered m rest ⟨st, []⟩ s.works) := by
  have refused : takeAnswer errs m (s.taken rest) = .ok (refuse st, s.works) := by
    simp only [takeAnswer, deviceChecks_starting (m := m) (k := (s.taken rest).works) h]
    simp only [State.taken]
  rw [exec_reqTake, execReqTake,
    State.takeRequest_front front (wanted := fun b => decide (b = 0x30#8)) (by simp [of_kind])]
  simp only [refused]
  exact congrArg _ (State.taken_placeReply s m rest (refuse st))

/-- Settles O51: every owner of the table begins with the start-up check, itself or through its checks of the target. -/
theorem startUpRefusesTheOtherRequests : Obligations.StartUpRefusesTheOtherRequests := by
  intro s m rest errs command front not_done in_table
  have h := Works.startCheck_of_not_done not_done
  generalize (if s.works.startup = .failed then Status.faulted else .starting) = st at h ⊢
  simp only [List.mem_append, List.mem_cons, Prod.mk.injEq, List.not_mem_nil, or_false] at in_table
  rcases in_table with ((⟨rfl, of_kind⟩ | ⟨rfl, of_kind⟩ | ⟨rfl, of_kind⟩ | ⟨rfl, of_kind⟩ | ⟨rfl, of_kind⟩ |
    ⟨rfl, of_kind⟩ | ⟨rfl, of_kind⟩ | ⟨rfl, of_kind⟩ | ⟨rfl, of_kind⟩ | ⟨rfl, of_kind⟩) | (⟨rfl, of_kind⟩ |
    ⟨rfl, of_kind⟩ | ⟨rfl, of_kind⟩ | ⟨rfl, of_kind⟩ | ⟨rfl, of_kind⟩ | ⟨rfl, of_kind⟩ | ⟨rfl, of_kind⟩ |
    ⟨rfl, of_kind⟩ | ⟨rfl, of_kind⟩ | ⟨rfl, of_kind⟩)) | (⟨rfl, of_kind⟩ | ⟨rfl, of_kind⟩ | ⟨rfl, of_kind⟩ |
    ⟨rfl, of_kind⟩)
  · exact State.carryOut_unchanged front of_kind (r := refuse st) (by
      simp [configureAnswer, deviceChecks_starting (m := m) (k := (s.taken rest).works) h])
  · exact State.carryOut_starting front of_kind (by simp [pollAnswer, deviceChecks_starting h])
  · exact State.carryOut_starting front of_kind (by simp [setAnswer, deviceChecks_starting h])
  · exact State.carryOut_unchanged front of_kind (r := refuse st) (by
      simp [bindAnswer, channelTarget_starting (m := m) (k := (s.taken rest).works) h])
  · exact State.carryOut_starting front of_kind (by simp [openAnswer, openChecks_starting h])
  · exact State.carryOut_starting front of_kind (by simp [attachAnswer, openChecks_starting h])
  · exact State.carryOut_starting front of_kind (by simp [detachAnswer, readyChecks_starting h])
  · exact State.carryOut_starting front of_kind (by simp [endAnswer, readyChecks_starting h])
  · exact State.carryOut_starting front of_kind (discardAnswer_starting h)
  · exact State.carryOut_starting front of_kind (by simp [truncateAnswer, readyChecks_starting h])
  · exact State.carryOut_starting front of_kind (by simp [recordAnswer, dictationChecks_starting h])
  · exact State.carryOut_starting front of_kind (by simp [stopAnswer, channelTargetSized_starting h])
  · exact State.carryOut_starting front of_kind (by simp [windAnswer, dictationChecks_starting h])
  · exact State.carryOut_starting front of_kind (by simp [reviewAnswer, dictationChecks_starting h])
  · exact State.carryOut_starting front of_kind (by simp [markAnswer, dictationChecks_starting h])
  · exact State.carryOut_starting front of_kind (by simp [unmarkAnswer, dictationChecks_starting h])
  · exact State.carryOut_starting front of_kind (by simp [marklistAnswer, channelTargetSized_starting h])
  · exact exec_reqTake_starting front of_kind h errs
  · exact State.carryOut_starting front of_kind (by simp [loadAnswer, channelTarget_starting h])
  · exact State.carryOut_starting front of_kind (by simp [unloadAnswer, channelTargetSized_starting h])
  · exact State.carryOut_unchanged front of_kind (r := refuse st) (by
      simp [feedAnswer, channelTarget_starting (m := m) (k := (s.taken rest).works) h])
  · exact State.carryOut_starting front of_kind (by simp [playAnswer, channelTarget_starting h])
  · exact State.carryOut_starting front of_kind (by simp [haltAnswer, channelTargetSized_starting h])
  · exact State.carryOut_starting front of_kind (by simp [stepAnswer, channelTargetSized_starting h])

end Sys2Proof.Machine

/-! PROOFS. BIND (R169) and the letter requests (03_letters_and_the_edit_list.md, R52 to R58).

The search for a job number and the search for a FREE record are each characterised by the first record that they stop at;
what a request then does to its letter and channel is read off its one operation. -/

namespace Sys2Proof.Machine

/-! ### BIND (R169) -/

theorem exec_reqBind (s : State) : exec .reqBind s = s.carryOut 0x10#8 bindAnswer := rfl

theorem mem_channelNumbers {c : Nat} : c ∈ channelNumbers ↔ c < 20 := List.mem_range

/-- A timeslot byte is what its binding is sent as. -/
theorem optByte_timeslotOf {b : Byte} {slot : Option Nat} (h : timeslotOf b = some slot) : optByte slot = b := by
  unfold timeslotOf at h
  split at h
  · obtain rfl := Option.some.inj h
    simp [optByte]
  · split at h
    · rename_i none_given
      obtain rfl := Option.some.inj h
      exact none_given.symm
    · cases h

/-- BIND replies the body that it was given. -/
theorem optBytes_of_bindBody {body : List Byte} {b : Binding} (h : bindBody body = some b) :
    [optByte b.rx, optByte b.tx] = body := by
  unfold bindBody at h
  split at h
  · rename_i r t
    split at h
    · rename_i rx tx hr ht
      obtain rfl := Option.some.inj h
      rw [optByte_timeslotOf hr, optByte_timeslotOf ht]
    · cases h
  · cases h

theorem Line.heldElsewhere_iff (l : Line) (c : Nat) (dir : Binding → Option Nat) (slot : Option Nat) :
    l.heldElsewhere c dir slot = true ↔ slot ≠ none ∧ ∃ d, d < 20 ∧ d ≠ c ∧ dir (l.binding d) = slot := by
  simp [Line.heldElsewhere, mem_channelNumbers, Option.isSome_iff_ne_none]

/-- BIND's answer past the checks of its target and body, one line for each of R169's checks 4 to 6. -/
theorem bindAnswer_of_body {m : Message} {s : State} {c : Nat} {b : Binding}
    (target : channelTarget m s.works = .ok c) (body : bindBody m.body = some b) :
    ((s.works.chan c).state ≠ .closed → bindAnswer m s = (refuse .busy, s)) ∧
    ((s.works.chan c).state = .closed →
      s.line.heldElsewhere c Binding.rx b.rx = true ∨ s.line.heldElsewhere c Binding.tx b.tx = true →
      bindAnswer m s = (refuse .inUse, s)) ∧
    ((s.works.chan c).state = .closed → s.line.heldElsewhere c Binding.rx b.rx = false →
      s.line.heldElsewhere c Binding.tx b.tx = false →
      bindAnswer m s = (⟨.ok, m.body⟩, { s with line := { s.line with bindings := s.line.bindings.set c b } })) := by
  refine ⟨fun is_open => ?_, fun closed held => ?_, fun closed rx_free tx_free => ?_⟩
  · simp [bindAnswer, target, body, is_open]
  · simp only [bindAnswer, target, body, closed]
    rcases held with held | held <;> simp [held]
  · simp [bindAnswer, target, body, closed, rx_free, tx_free, optBytes_of_bindBody body]

/-- Settles O19: the two searches for another holder are the two halves of `held`. -/
theorem bindReplacesBothBindings : Obligations.BindReplacesBothBindings := by
  intro s m rest c b front ⟨of_kind, target, scan_done⟩ body held
  have checked : channelTarget m (s.taken rest).works = .ok c := channelTarget_ok scan_done target
  have held_iff : held ↔
      s.line.heldElsewhere c Binding.rx b.rx = true ∨ s.line.heldElsewhere c Binding.tx b.tx = true := by
    simp only [Line.heldElsewhere_iff, held]
    constructor
    · rintro ⟨d, hd, other, ⟨bound, same⟩ | ⟨bound, same⟩⟩
      · exact Or.inl ⟨bound, d, hd, other, same⟩
      · exact Or.inr ⟨bound, d, hd, other, same⟩
    · rintro (⟨bound, d, hd, other, same⟩ | ⟨bound, d, hd, other, same⟩)
      · exact ⟨d, hd, other, Or.inl ⟨bound, same⟩⟩
      · exact ⟨d, hd, other, Or.inr ⟨bound, same⟩⟩
  obtain ⟨busy, in_use, taken⟩ := bindAnswer_of_body checked body
  refine ⟨fun is_open => ?_, fun closed elsewhere => ?_, fun closed free => ?_⟩
  · exact State.carryOut_unchanged front of_kind (busy is_open)
  · exact State.carryOut_unchanged front of_kind (in_use closed (held_iff.1 elsewhere))
  · obtain ⟨rx_free, tx_free⟩ := not_or.1 fun h => free (held_iff.2 h)
    rw [exec_reqBind, State.carryOut_front front of_kind,
      taken closed (Bool.eq_false_iff.2 rx_free) (Bool.eq_false_iff.2 tx_free)]
    simp only [State.placeReply, State.answered, State.taken]

/-! ### Searching the letter records (R33, R53) -/

theorem Works.letter_eq_getElem {k : Works} {i : Nat} (h : i < k.letters.length) : k.letter i = k.letters[i] :=
  List.getD_eq_getElem _ _ h

theorem Works.findJob_eq_some {k : Works} {job i : Nat} (exists_ : i < k.letters.length)
    (held : (k.letter i).state ≠ .free) (has : (k.letter i).job = job)
    (earlier : ∀ j, j < i → (k.letter j).state = .free ∨ (k.letter j).job ≠ job) : k.findJob job = some i := by
  rw [Works.findJob, List.findIdx?_eq_some_iff_getElem]
  refine ⟨exists_, ?_, fun j hj => ?_⟩
  · rw [Works.letter_eq_getElem exists_] at held has
    simp [held, has]
  · have other := earlier j hj
    rw [Works.letter_eq_getElem (hj.trans exists_)] at other
    simpa [Decidable.or_iff_not_imp_left] using other

theorem Works.findJob_isSome_iff (k : Works) (job : Nat) :
    (k.findJob job).isSome = true ↔ ∃ l ∈ k.letters, l.state ≠ .free ∧ l.job = job := by
  simp [Works.findJob]

theorem Works.findFree_eq_some {k : Works} {i : Nat} (exists_ : i < k.letters.length)
    (free : (k.letter i).state = .free) (earlier : ∀ j, j < i → (k.letter j).state ≠ .free) :
    k.findFree = some i := by
  rw [Works.findFree, List.findIdx?_eq_some_iff_getElem]
  refine ⟨exists_, ?_, fun j hj => ?_⟩
  · rw [Works.letter_eq_getElem exists_] at free
    simp [free]
  · have held := earlier j hj
    rw [Works.letter_eq_getElem (hj.trans exists_)] at held
    simp [held]

theorem Works.findFree_eq_none {k : Works} (held : ∀ l ∈ k.letters, l.state ≠ .free) : k.findFree = none := by
  simpa [Works.findFree, List.findIdx?_eq_none_iff] using held

/-! ### OPEN and ATTACH (R53, R54) -/

theorem exec_reqOpen (s : State) : exec .reqOpen s = s.carryOut 0x11#8 (onWorks openAnswer) := rfl
theorem exec_reqAttach (s : State) : exec .reqAttach s = s.carryOut 0x12#8 (onWorks attachAnswer) := rfl

theorem openChecks_ok {m : Message} {k : Works} {c : Nat} (scan_done : k.startup = .done)
    (target : targetOf m.target = .channel c) (four : m.body.length = 4) (closed : (k.chan c).state = .closed) :
    openChecks m k = .ok (c, leValue m.body) := by
  simp [openChecks, channelTargetSized_ok scan_done target four, closed]

/-- Settles O20: OPEN stops at the job number or at the first FREE record, and ATTACH at the letter with the job number,
whose state decides. -/
theorem openAndAttachTakeALetter : Obligations.OpenAndAttachTakeALetter := by
  constructor
  · intro s m rest c front ⟨of_kind, target, scan_done⟩ four closed job used
    have checks := openChecks_ok scan_done target four closed
    have unused_iff : ¬used → (s.works.findJob job).isSome = false := fun unused => by
      rw [← Bool.not_eq_true, Works.findJob_isSome_iff]
      exact unused
    refine ⟨fun in_use => ?_, fun unused none_free => ?_, fun i unused exists_ free lowest => ?_⟩
    · have answer : openAnswer m s.works = (refuse .inUse, s.works) := by
        simp only [openAnswer, checks, (s.works.findJob_isSome_iff (leValue m.body)).2 in_use, if_true]
      rw [exec_reqOpen, State.carryOut_works front of_kind, answer, refuse]
    · have answer : openAnswer m s.works = (refuse .full, s.works) := by
        simp [openAnswer, checks, show (s.works.findJob (leValue m.body)).isSome = false from unused_iff unused,
          Works.findFree_eq_none none_free]
      rw [exec_reqOpen, State.carryOut_works front of_kind, answer, refuse]
    · have answer : openAnswer m s.works = (⟨.ok, byte1 i⟩, s.works.openLetter c i job) := by
        simp [openAnswer, checks, show (s.works.findJob (leValue m.body)).isSome = false from unused_iff unused,
          Works.findFree_eq_some exists_ free lowest, job]
      rw [exec_reqOpen, State.carryOut_works front of_kind, answer]
      exact next_answered_congr rfl rfl
  · intro s m rest c i front ⟨of_kind, target, scan_done⟩ four closed exists_ has earlier joined k l
    have checks := openChecks_ok scan_done target four closed
    have found : (s.works.letter i).state ≠ .free → s.works.findJob (leValue m.body) = some i := fun held =>
      Works.findJob_eq_some exists_ held has earlier
    refine ⟨fun detached => ?_, fun sealing => ?_, fun attached => ?_⟩
    · have answer : attachAnswer m s.works = (⟨.ok, attachBody i l⟩, k) := by
        simp only [attachAnswer, checks, found (by simp [detached]), detached]
        rfl
      rw [exec_reqAttach, State.carryOut_works front of_kind, answer, attachBody]
    · have answer : attachAnswer m s.works = (refuse .ended, s.works) := by
        simp only [attachAnswer, checks, found (by simp [sealing]), sealing]
      rw [exec_reqAttach, State.carryOut_works front of_kind, answer, refuse]
    · have answer : attachAnswer m s.works = (refuse .inUse, s.works) := by
        simp only [attachAnswer, checks, found (by simp [attached]), attached]
      rw [exec_reqAttach, State.carryOut_works front of_kind, answer, refuse]

/-! ### DETACH, END, DISCARD, TRUNCATE (R55 to R58) -/

theorem exec_reqDetach (s : State) : exec .reqDetach s = s.carryOut 0x13#8 (onWorks detachAnswer) := rfl
theorem exec_reqEnd (s : State) : exec .reqEnd s = s.carryOut 0x14#8 (onWorks endAnswer) := rfl
theorem exec_reqDiscard (s : State) : exec .reqDiscard s = s.carryOut 0x15#8 (onWorks discardAnswer) := rfl
theorem exec_reqTruncate (s : State) : exec .reqTruncate s = s.carryOut 0x16#8 (onWorks truncateAnswer) := rfl

/-- END at the works: SEAL_READY goes among the flags when the sealed list was empty (R50). -/
theorem Works.endLetter_eq {k : Works} (scan_done : k.startup = .done) (c i : Nat) :
    k.endLetter c i =
      { k with
        letters := k.letters.set i (k.letter i).ended, chans := k.chans.set c (k.chan c).release,
        events := if (k.letter i).sealedList = [] then putEvent ⟨.sealReady, c, BitVec.ofNat 32 i, 0⟩ k.events
          else k.events } := by
  unfold Works.endLetter
  by_cases empty : (k.letter i).sealedList = []
  · simp only [empty, List.isEmpty_nil, if_true, Works.raise]
    rw [Works.raiseWith_done (by exact scan_done)]
    rfl
  · simp only [List.isEmpty_iff, empty, if_false]
    rfl

/-- Settles O21: both close the READY channel, and each leaves its letter as its one operation says. -/
theorem detachAndEndReleaseTheChannel : Obligations.DetachAndEndReleaseTheChannel := by
  intro s m rest c i front no_body target scan_done ready l released
  have checks := readyChecks_ok scan_done target no_body ready
  refine ⟨fun of_kind => ?_, fun of_kind => ?_⟩
  · have answer : detachAnswer m s.works = (⟨.ok, []⟩, s.works.detachLetter c i) := by simp [detachAnswer, checks]
    rw [exec_reqDetach, State.carryOut_works front of_kind, answer]
    exact next_answered_congr rfl rfl
  · have answer : endAnswer m s.works = (⟨.ok, byte3 l.length⟩, s.works.endLetter c i) := by
      simp only [endAnswer, checks]
      rfl
    rw [exec_reqEnd, State.carryOut_works front of_kind, answer, Works.endLetter_eq scan_done]
    exact next_answered_congr rfl rfl

/-- A letter discarded: its record is FREE, and its entries and slots return (R57). -/
theorem Works.discardLetter_eq (k : Works) (i : Nat) :
    k.discardLetter i =
      ({ k with letters := k.letters.set i Letter.freeRecord } : Works).given (k.letter i).entryCount
        (k.letter i).slots :=
  Works.giveBack_eq_given _ _ _

/-- Settles O22: both forms end in `Works.discardLetter`, whose return of entries and slots is `Works.given`. -/
theorem discardReturnsTheLetter : Obligations.DiscardReturnsTheLetter := by
  intro s m rest i front of_kind scan_done l entries slots freed
  refine ⟨fun c target no_body ready => ?_, fun target four exists_ held has earlier => ?_⟩
  · intro released
    have answer : discardAnswer m s.works = (⟨.ok, []⟩, (s.works.modChan c Channel.release).discardLetter i) := by
      simp [discardAnswer, target, discardByChannel, readyChecks_ok scan_done target no_body ready]
    rw [exec_reqDiscard, State.carryOut_works front of_kind, answer, Works.discardLetter_eq]
    exact next_answered_congr rfl rfl
  · have checks : deviceChecks true m s.works (fun len => decide (len = 4)) = none :=
      deviceChecks_ok scan_done target (by simp [four])
    have found := Works.findJob_eq_some exists_ held has earlier
    refine ⟨fun attached => ?_, fun released => ?_⟩
    · have answer : discardAnswer m s.works = (refuse .inUse, s.works) := by
        simp only [discardAnswer, target, if_true, discardByJob, checks, found]
        rw [if_pos attached]
      rw [exec_reqDiscard, State.carryOut_works front of_kind, answer, refuse]
    · have answer : discardAnswer m s.works = (⟨.ok, []⟩, s.works.discardLetter i) := by
        simp only [discardAnswer, target, if_true, discardByJob, checks, found]
        rw [if_neg released]
      rw [exec_reqDiscard, State.carryOut_works front of_kind, answer, Works.discardLetter_eq]
      exact next_answered_congr rfl rfl

/-- Settles O23: TRUNCATE is one operation, whose return of entries and slots is `Works.given`. -/
theorem truncateEndsTheLetterAtItsCursor : Obligations.TruncateEndsTheLetterAtItsCursor := by
  intro s m rest c i front ⟨of_kind, target, scan_done⟩ no_body ready l
  have answer : truncateAnswer m s.works = (⟨.ok, byte3 l.cursor⟩, s.works.truncateLetter c i) := by
    simp only [truncateAnswer, readyChecks_ok scan_done target no_body ready]
    rfl
  rw [exec_reqTruncate, State.carryOut_works front of_kind, answer, Works.truncateLetter, Works.giveBack_eq_given]
  exact next_answered_congr rfl rfl

end Sys2Proof.Machine

/-! PROOFS. The edit list (03_letters_and_the_edit_list.md): divisions of runs, placements, growth steps, sealing.

Every operation cuts the edit list at a position, and a cut is one of two things: the list divided before the entry that
holds the position (`Letter.cut_inside`), or the whole list with nothing after it (`Letter.cut_beyond`). A placement is
described by what stands before and after the new entry (`Plan.Puts`), from which all that R40 to R43 say follows. -/

namespace Sys2Proof.Machine

/-! ### Cuts of a letter (R38) -/

theorem Letter.cut_inside {l : Letter} {p : Nat} {before after : List Entry} {e : Entry}
    (h : l.edit = before ++ e :: after) (low : l.sealB + spanOf before ≤ p)
    (high : p < l.sealB + spanOf before + e.count) : l.cut p = ⟨before, l.sealB + spanOf before, e :: after⟩ :=
  cutAt_inside before h low high

theorem Letter.cut_beyond {l : Letter} {p : Nat} (h : l.sealB + spanOf l.edit ≤ p) :
    (l.cut p).before = l.edit ∧ (l.cut p).rest = [] := cutAt_beyond l.edit h

/-- A position at or after the seal boundary lies in an entry or at or beyond the end. -/
theorem Letter.position_cases (l : Letter) {p : Nat} (low : l.sealB ≤ p) :
    (∃ before e after, l.edit = before ++ e :: after ∧ l.sealB + spanOf before ≤ p ∧
      p < l.sealB + spanOf before + e.count) ∨ l.sealB + spanOf l.edit ≤ p := by
  have whole : (l.cut p).before ++ (l.cut p).rest = l.edit := cutAt_append p l.sealB l.edit
  have start : (l.cut p).start = l.sealB + spanOf (l.cut p).before := cutAt_start p l.sealB l.edit
  have le : (l.cut p).start ≤ p := cutAt_start_le l.edit low
  cases hr : (l.cut p).rest with
  | nil =>
    rw [hr, List.append_nil] at whole
    exact Or.inr (by rw [← whole, ← start]; exact le)
  | cons e post =>
    have holds : p < (l.cut p).start + e.count := cutAt_holds hr
    exact Or.inl ⟨(l.cut p).before, e, post, by rw [← hr, whole], by omega, by omega⟩

theorem spanOf_eq_count_of_mem {before after : List Entry} (e : Entry) :
    spanOf (before ++ e :: after) = spanOf before + e.count + spanOf after := by
  rw [spanOf_append, spanOf_cons]
  omega

@[simp] theorem Entry.count_run (id : Nat) (kind : RunKind) (n : Nat) : Entry.count ⟨id, .run kind n⟩ = n := rfl
@[simp] theorem Entry.count_speech (id : Nat) (held : Option Nat) : Entry.count ⟨id, .speech held⟩ = 1 := rfl

/-! ### Truncation and splits (R58, R64) -/

theorem Letter.divided_at_start {l : Letter} {before after : List Entry} {e : Entry}
    (h : l.edit = before ++ e :: after) (covers : 1 ≤ e.count) :
    l.truncated (l.sealB + spanOf before) = before ∧ l.cutAway (l.sealB + spanOf before) = e :: after ∧
      ∀ spare, l.splitRun (l.sealB + spanOf before) spare = none := by
  have cut := Letter.cut_inside h le_rfl (Nat.lt_add_of_pos_right covers)
  obtain ⟨id, body⟩ := e
  cases body with
  | speech held => simp [Letter.truncated, Letter.cutAway, Letter.splitRun, cut]
  | run kind n => simp [Letter.truncated, Letter.cutAway, Letter.splitRun, cut, runPiece]

theorem Letter.divided_in_run {l : Letter} {p id n : Nat} {kind : RunKind} {before after : List Entry}
    (h : l.edit = before ++ ⟨id, .run kind n⟩ :: after) (low : l.sealB + spanOf before < p)
    (high : p < l.sealB + spanOf before + n) :
    l.truncated p = before ++ [⟨id, .run kind (p - (l.sealB + spanOf before))⟩] ∧ l.cutAway p = after ∧
      ∀ spare, l.splitRun p spare =
        some (before ++ ⟨id, .run kind (p - (l.sealB + spanOf before))⟩ ::
          ⟨spare, .run kind (l.sealB + spanOf before + n - p)⟩ :: after) := by
  have cut := Letter.cut_inside h low.le high
  have some_left : p - (l.sealB + spanOf before) ≠ 0 := by omega
  simp [Letter.truncated, Letter.cutAway, Letter.splitRun, cut, runPiece, some_left, low]

theorem Letter.divided_at_end {l : Letter} {p : Nat} (h : l.sealB + spanOf l.edit ≤ p) :
    l.truncated p = l.edit ∧ l.cutAway p = [] ∧ ∀ spare, l.splitRun p spare = none := by
  obtain ⟨all_before, no_rest⟩ := Letter.cut_beyond h
  simp [Letter.truncated, Letter.cutAway, Letter.splitRun, all_before, no_rest]

/-- A position that an entry holds past its start lies in a run, as a SPEECH entry has one position only. -/
theorem Entry.is_run_of_inside {e : Entry} {start p : Nat} (low : start < p) (high : p < start + e.count) :
    ∃ id kind n, e = ⟨id, .run kind n⟩ := by
  obtain ⟨id, body⟩ := e
  cases body with
  | speech held =>
    rw [Entry.count_speech] at high
    omega
  | run kind n => exact ⟨id, kind, n, rfl⟩

/-- A split is made inside one run, and its two pieces are that run. -/
theorem Letter.splitRun_eq_some {l : Letter} {p spare : Nat} {edit : List Entry} (boundary : l.sealB ≤ p)
    (h : l.splitRun p spare = some edit) :
    ∃ before after id kind n, l.edit = before ++ ⟨id, .run kind n⟩ :: after ∧ l.sealB + spanOf before < p ∧
      p < l.sealB + spanOf before + n ∧
      edit = before ++ ⟨id, .run kind (p - (l.sealB + spanOf before))⟩ ::
        ⟨spare, .run kind (l.sealB + spanOf before + n - p)⟩ :: after := by
  rcases l.position_cases boundary with ⟨before, e, after, he, low, high⟩ | past
  · rcases low.eq_or_lt with at_start | inside
    · have none_made := (Letter.divided_at_start he (by omega)).2.2 spare
      rw [at_start, h] at none_made
      cases none_made
    · obtain ⟨id, kind, n, rfl⟩ := Entry.is_run_of_inside inside high
      have made := (Letter.divided_in_run he inside high).2.2 spare
      rw [h] at made
      exact ⟨before, after, id, kind, n, he, inside, high, Option.some.inj made⟩
  · have none_made := (Letter.divided_at_end past).2.2 spare
    rw [h] at none_made
    cases none_made

/-- Settles O24: a cut stands at the start of an entry, inside a run, or at the end, and each is computed. -/
theorem runsAreDividedWithoutLoss : Obligations.RunsAreDividedWithoutLoss := by
  refine ⟨fun l p covers low high => ?_, fun l p spare edit low split => ?_, fun l p before after e he => ?_,
    fun l p past => Letter.divided_at_end past⟩
  · rcases l.position_cases low with ⟨before, e, after, he, from_start, to_stop⟩ | past
    · have whole := congrArg List.length he
      rw [List.length_append, List.length_cons] at whole
      rcases from_start.eq_or_lt with rfl | inside
      · obtain ⟨stays, goes, -⟩ := Letter.divided_at_start he (by omega)
        rw [stays, goes, List.length_cons]
        exact ⟨by omega, by omega⟩
      · obtain ⟨id, kind, n, rfl⟩ := Entry.is_run_of_inside inside to_stop
        obtain ⟨stays, goes, -⟩ := Letter.divided_in_run he inside to_stop
        rw [stays, goes, spanOf_eq_count_of_mem, Entry.count_run]
        simp only [List.length_append, List.length_cons, List.length_nil, spanOf, List.map_nil, List.sum_nil] at whole ⊢
        exact ⟨by simp only [spanOf] at inside; omega, by omega⟩
    · obtain ⟨stays, goes, -⟩ := Letter.divided_at_end past
      rw [stays, goes]
      exact ⟨by omega, rfl⟩
  · obtain ⟨before, after, id, kind, n, he, inside, to_stop, rfl⟩ := Letter.splitRun_eq_some low split
    refine ⟨before, after, id, kind, p - (l.sealB + spanOf before), l.sealB + spanOf before + n - p, by omega, by omega,
      ?_, rfl, by omega⟩
    rw [he, show p - (l.sealB + spanOf before) + (l.sealB + spanOf before + n - p) = n by omega]
  · intro start
    refine ⟨?_, ?_⟩
    · rintro rfl covers
      exact Letter.divided_at_start he covers
    · rintro id kind n inside to_stop rfl
      exact Letter.divided_in_run he inside to_stop

/-! ### Placement of a new entry (R40, R41, R43) -/

theorem slotsOf_append (a b : List Entry) : slotsOf (a ++ b) = slotsOf a ++ slotsOf b := List.filterMap_append

theorem slotsOf_cons (e : Entry) (es : List Entry) : slotsOf (e :: es) = e.slot.toList ++ slotsOf es := by
  cases h : e.slot <;> simp [slotsOf, h]

@[simp] theorem slotsOf_nil : slotsOf [] = [] := rfl
@[simp] theorem Entry.slot_run (id : Nat) (kind : RunKind) (n : Nat) : Entry.slot ⟨id, .run kind n⟩ = none := rfl
@[simp] theorem Entry.slot_speech (id : Nat) (held : Option Nat) : Entry.slot ⟨id, .speech held⟩ = held := rfl

@[simp] theorem slotsOf_runPiece (id : Nat) (kind : RunKind) (n : Nat) : slotsOf (runPiece id kind n) = [] := by
  unfold runPiece
  split <;> rfl

theorem runPiece_covers {id n : Nat} {kind : RunKind} {e : Entry} (h : e ∈ runPiece id kind n) : 1 ≤ e.count := by
  unfold runPiece at h
  split at h
  · cases h
  · obtain rfl := List.mem_singleton.1 h
    rw [Entry.count_run]
    omega

/-- A plan that puts a new entry between two lists, of which the first ends at the write point: what it keeps of the old
list, how many records that takes, and which slots it leaves over. -/
structure Plan.Puts (p : Plan) (l : Letter) (w : Nat) (new : Entry) (front back : List Entry) : Prop where
  edit : p.edit = front ++ new :: back
  starts : l.sealB + spanOf front = w
  covers : ∀ e ∈ front ++ back, 1 ≤ e.count
  span : spanOf front + spanOf back + 1 = spanOf l.edit + (if p.longer then 1 else 0)
  records : front.length + back.length + 1 = l.edit.length + p.need
  slots : (slotsOf front ++ slotsOf back ++ p.freed).Perm (slotsOf l.edit)

theorem Letter.entryAt_of_edit {l : Letter} {w : Nat} {front back : List Entry} {new : Entry}
    (h : l.edit = front ++ new :: back) (starts : l.sealB + spanOf front = w) (one : 1 ≤ new.count) :
    l.entryAt w = some new := by
  have cut := Letter.cut_inside (p := w) h starts.le (by omega)
  have past_boundary : ¬w < l.sealB := by omega
  simp [Letter.entryAt, past_boundary, cut]

section
variable {l : Letter} {w : Nat} {new : Entry} {spare : Nat}

/-- At or beyond the end both modes put the new entry at the back. -/
theorem planEntry_puts_at_end (mode : RecMode) (covers : ∀ e ∈ l.edit, 1 ≤ e.count)
    (at_end : w = l.sealB + spanOf l.edit) :
    (planEntry mode l w new spare).Puts l w new l.edit [] ∧ (planEntry mode l w new spare).longer = true ∧
      (planEntry mode l w new spare).need ≤ 2 := by
  obtain ⟨all_before, no_rest⟩ := Letter.cut_beyond at_end.ge
  have plan : planEntry mode l w new spare = ⟨l.edit ++ [new], 1, [], true⟩ := by
    cases mode <;> simp [planEntry, planInsert, planOverwrite, all_before, no_rest]
  rw [plan]
  exact ⟨⟨rfl, at_end.symm, by simpa using covers, by simp [spanOf], by simp, by simp⟩, rfl, Nat.le_succ 1⟩

variable {before after : List Entry} {e : Entry} (he : l.edit = before ++ e :: after)
  (covers : ∀ f ∈ l.edit, 1 ≤ f.count)
include he covers

theorem covers_before_after : (∀ f ∈ before, 1 ≤ f.count) ∧ ∀ f ∈ after, 1 ≤ f.count := by
  rw [he] at covers
  exact ⟨fun f hf => covers f (List.mem_append_left _ hf),
    fun f hf => covers f (List.mem_append_right _ (List.mem_cons_of_mem _ hf))⟩

/-- At the start of an entry insert mode puts the new entry before it. -/
theorem planInsert_puts_at_start (at_start : w = l.sealB + spanOf before) :
    (planInsert l w new spare).Puts l w new before (e :: after) ∧ (planInsert l w new spare).longer = true ∧
      (planInsert l w new spare).need ≤ 2 := by
  have cut : l.cut w = ⟨before, w, e :: after⟩ := by
    rw [at_start]
    exact Letter.cut_inside he le_rfl (Nat.lt_add_of_pos_right (covers e (by simp [he])))
  have plan : planInsert l w new spare = ⟨before ++ new :: e :: after, 1, [], true⟩ := by
    obtain ⟨id, body⟩ := e
    cases body <;> simp [planInsert, cut]
  rw [plan]
  refine ⟨⟨rfl, at_start.symm, ?_, ?_, ?_, ?_⟩, rfl, Nat.le_succ 1⟩
  · rwa [← he]
  · rw [he, spanOf_append]
    rfl
  · simp only [he, List.length_append, List.length_cons]
  · simp [he, slotsOf_append]

/-- Inside a run insert mode puts the new entry between two pieces of it. -/
theorem planInsert_puts_in_run {id n : Nat} {kind : RunKind} (is_run : e = ⟨id, .run kind n⟩)
    (low : l.sealB + spanOf before < w) (high : w < l.sealB + spanOf before + n) :
    let front := w - (l.sealB + spanOf before)
    (planInsert l w new spare).Puts l w new (before ++ runPiece id kind front) (runPiece spare kind (n - front) ++ after) ∧
      (planInsert l w new spare).longer = true ∧ (planInsert l w new spare).need ≤ 2 := by
  subst is_run
  intro front
  have cut := Letter.cut_inside he low.le (by simpa using high)
  have front_left : w - (l.sealB + spanOf before) ≠ 0 := by omega
  have plan : planInsert l w new spare =
      ⟨before ++ runPiece id kind front ++ new :: (runPiece spare kind (n - front) ++ after), 2, [], true⟩ := by
    simp [planInsert, cut, front_left, front]
  obtain ⟨covers_before, covers_after⟩ := covers_before_after he covers
  have back_left : n - front ≠ 0 := by omega
  rw [plan]
  refine ⟨⟨rfl, ?_, ?_, ?_, ?_, ?_⟩, rfl, by simp only; omega⟩
  · rw [spanOf_append, spanOf_runPiece]
    omega
  · intro f hf
    simp only [List.mem_append] at hf
    rcases hf with (hf | hf) | hf | hf
    exacts [covers_before f hf, runPiece_covers hf, runPiece_covers hf, covers_after f hf]
  · simp only [he, spanOf_append, spanOf_cons, spanOf_runPiece, Entry.count_run, if_true]
    omega
  · simp only [he, List.length_append, List.length_cons, runPiece_length, if_neg front_left, if_neg back_left, front]
    omega
  · simp [he, slotsOf_append, slotsOf_cons]

/-- At a SPEECH entry overwrite mode puts the new entry in its place. -/
theorem planOverwrite_puts_at_speech {id : Nat} {held : Option Nat} (is_speech : e = ⟨id, .speech held⟩)
    (at_start : w = l.sealB + spanOf before) :
    (planOverwrite l w new spare).Puts l w new before after ∧ (planOverwrite l w new spare).longer = false ∧
      (planOverwrite l w new spare).need ≤ 2 := by
  subst is_speech
  have cut := Letter.cut_inside he at_start.ge (by simp [at_start])
  have plan : planOverwrite l w new spare = ⟨before ++ new :: after, 0, held.toList, false⟩ := by
    simp [planOverwrite, cut]
  obtain ⟨covers_before, covers_after⟩ := covers_before_after he covers
  rw [plan]
  refine ⟨⟨rfl, at_start.symm, ?_, ?_, ?_, ?_⟩, rfl, by simp only; omega⟩
  · intro f hf
    rcases List.mem_append.1 hf with hf | hf
    exacts [covers_before f hf, covers_after f hf]
  · simp only [he, spanOf_append, spanOf_cons, Entry.count_speech]
    simp
    omega
  · simp only [he, List.length_append, List.length_cons]
    omega
  · rw [he, slotsOf_append, slotsOf_cons, Entry.slot_speech, List.append_assoc]
    exact List.Perm.append_left _ List.perm_append_comm

/-- In a run overwrite mode puts the new entry in the place of one position of it. -/
theorem planOverwrite_puts_in_run {id n : Nat} {kind : RunKind} (is_run : e = ⟨id, .run kind n⟩)
    (low : l.sealB + spanOf before ≤ w) (high : w < l.sealB + spanOf before + n) :
    let front := w - (l.sealB + spanOf before)
    let back := l.sealB + spanOf before + n - 1 - w
    (planOverwrite l w new spare).Puts l w new (before ++ runPiece id kind front)
        (runPiece (if front = 0 then id else spare) kind back ++ after) ∧
      (planOverwrite l w new spare).longer = false ∧ (planOverwrite l w new spare).need ≤ 2 := by
  subst is_run
  intro front back
  have cut := Letter.cut_inside he low (by simpa using high)
  have plan : planOverwrite l w new spare =
      ⟨before ++ runPiece id kind front ++ new :: (runPiece (if front = 0 then id else spare) kind back ++ after),
        (if front = 0 then 0 else 1) + (if back = 0 then 0 else 1), [], false⟩ := by
    by_cases at_start : w - (l.sealB + spanOf before) = 0
    · simp [planOverwrite, cut, at_start, front, back, runPiece]
    · by_cases at_stop : back = 0 <;>
        simp [planOverwrite, cut, at_start, at_stop, front, show l.sealB + spanOf before + n - 1 - w = back from rfl]
  obtain ⟨covers_before, covers_after⟩ := covers_before_after he covers
  rw [plan]
  refine ⟨⟨rfl, ?_, ?_, ?_, ?_, ?_⟩, rfl, by simp only; split <;> split <;> omega⟩
  · rw [spanOf_append, spanOf_runPiece]
    omega
  · intro f hf
    simp only [List.mem_append] at hf
    rcases hf with (hf | hf) | hf | hf
    exacts [covers_before f hf, runPiece_covers hf, runPiece_covers hf, covers_after f hf]
  · simp only [he, spanOf_append, spanOf_cons, spanOf_runPiece, Entry.count_run]
    simp
    omega
  · simp only [he, List.length_append, List.length_cons, runPiece_length]
    omega
  · simp [he, slotsOf_append, slotsOf_cons]

end

/-- Every placement is one of the five above: it puts its entry somewhere, and the letter grows exactly in insert mode or
at its end. -/
theorem planEntry_puts (mode : RecMode) {l : Letter} {w : Nat} (new : Entry) (spare : Nat)
    (covers : ∀ e ∈ l.edit, 1 ≤ e.count) (low : l.sealB ≤ w) (high : w ≤ l.sealB + spanOf l.edit) :
    (∃ front back, (planEntry mode l w new spare).Puts l w new front back) ∧
      ((planEntry mode l w new spare).longer = true ↔ mode = .insert ∨ w = l.sealB + spanOf l.edit) ∧
      (planEntry mode l w new spare).need ≤ 2 := by
  rcases l.position_cases low with ⟨before, e, after, he, from_start, to_stop⟩ | past
  · have not_end : w ≠ l.sealB + spanOf l.edit := by
      rw [he, spanOf_eq_count_of_mem]
      omega
    rcases from_start.eq_or_lt with at_start | inside
    · cases mode with
      | insert =>
        obtain ⟨puts, longer, need⟩ := planInsert_puts_at_start (new := new) (spare := spare) he covers at_start.symm
        exact ⟨⟨_, _, puts⟩, by simp [planEntry, longer], need⟩
      | overwrite =>
        obtain ⟨id, body⟩ := e
        cases body with
        | speech held =>
          obtain ⟨puts, longer, need⟩ :=
            planOverwrite_puts_at_speech (new := new) (spare := spare) he covers rfl at_start.symm
          exact ⟨⟨_, _, puts⟩, by simp [planEntry, longer, not_end], need⟩
        | run kind n =>
          obtain ⟨puts, longer, need⟩ :=
            planOverwrite_puts_in_run (new := new) (spare := spare) he covers rfl from_start to_stop
          exact ⟨⟨_, _, puts⟩, by simp [planEntry, longer, not_end], need⟩
    · obtain ⟨id, kind, n, rfl⟩ := Entry.is_run_of_inside inside to_stop
      cases mode with
      | insert =>
        obtain ⟨puts, longer, need⟩ := planInsert_puts_in_run (new := new) (spare := spare) he covers rfl inside to_stop
        exact ⟨⟨_, _, puts⟩, by simp [planEntry, longer], need⟩
      | overwrite =>
        obtain ⟨puts, longer, need⟩ :=
          planOverwrite_puts_in_run (new := new) (spare := spare) he covers rfl from_start to_stop
        exact ⟨⟨_, _, puts⟩, by simp [planEntry, longer, not_end], need⟩
  · have at_end : w = l.sealB + spanOf l.edit := by omega
    obtain ⟨puts, longer, need⟩ := planEntry_puts_at_end (new := new) (spare := spare) mode covers at_end
    exact ⟨⟨_, _, puts⟩, iff_of_true longer (Or.inr at_end), need⟩

/-! ### Growth steps (R42, R44) -/

theorem bumpRun_append (id : Nat) (a b : List Entry) : bumpRun id (a ++ b) = bumpRun id a ++ bumpRun id b :=
  List.map_append

theorem bumpRun_of_absent {id : Nat} {es : List Entry} (h : ∀ e ∈ es, e.id ≠ id) : bumpRun id es = es := by
  unfold bumpRun
  conv_rhs => rw [← List.map_id es]
  refine List.map_congr_left fun e he => ?_
  split
  · simp [h e he]
  · rfl

theorem bumpRun_of_one {id n : Nat} {kind : RunKind} {before after : List Entry} (h1 : ∀ e ∈ before, e.id ≠ id)
    (h2 : ∀ e ∈ after, e.id ≠ id) :
    bumpRun id (before ++ ⟨id, .run kind n⟩ :: after) = before ++ ⟨id, .run kind (n + 1)⟩ :: after := by
  rw [bumpRun_append, bumpRun_of_absent h1, ← List.singleton_append, bumpRun_append, bumpRun_of_absent h2]
  simp [bumpRun]

/-- A growth step whose list is the old one with the growing run one longer and what stands after it changed: what R42
and R44 say of it follows from the change of what stands after. -/
structure Growth.Grows (g : Growth) (run : Entry) (before after rest : List Entry) : Prop where
  edit : g.edit = before ++ run :: rest
  span : spanOf rest + 1 = spanOf after + (if g.longer then 1 else 0)
  records : rest.length + g.returned = after.length
  slots : (slotsOf rest ++ g.freed).Perm (slotsOf after)

/-- The growth step of a run with a number of its own, at its own end. -/
theorem planGrowth_grows (mode : RecMode) {l : Letter} {before after : List Entry} {id n : Nat} {kind : RunKind}
    (covers : ∀ e ∈ l.edit, 1 ≤ e.count) (he : l.edit = before ++ ⟨id, .run kind n⟩ :: after)
    (h1 : ∀ e ∈ before, e.id ≠ id) (h2 : ∀ e ∈ after, e.id ≠ id) :
    let g := planGrowth mode l (l.sealB + spanOf before + n) id
    (∃ rest, g.Grows ⟨id, .run kind (n + 1)⟩ before after rest) ∧ (g.longer = true ↔ mode = .insert ∨ after = []) := by
  intro g
  have bump_front : bumpRun id (before ++ [⟨id, .run kind n⟩]) = before ++ [⟨id, .run kind (n + 1)⟩] :=
    bumpRun_of_one h1 (by simp)
  have front_span : l.sealB + spanOf (before ++ [⟨id, .run kind n⟩]) = l.sealB + spanOf before + n := by
    rw [spanOf_append, spanOf_cons, Entry.count_run]
    simp [spanOf, Nat.add_assoc]
  have he' : l.edit = (before ++ [⟨id, .run kind n⟩]) ++ after := by rw [he, List.append_assoc]; rfl
  cases mode with
  | insert =>
    have grown : g = ⟨before ++ ⟨id, .run kind (n + 1)⟩ :: after, 0, [], true⟩ := by
      simp only [g, planGrowth]
      rw [he, bumpRun_of_one h1 h2]
    rw [grown]
    exact ⟨⟨after, rfl, rfl, rfl, by simp⟩, by simp⟩
  | overwrite =>
    cases after with
    | nil =>
      rw [List.append_nil] at he'
      obtain ⟨all_before, no_rest⟩ := Letter.cut_beyond (l := l) (p := l.sealB + spanOf before + n)
        (by rw [← front_span, he'])
      have grown : g = ⟨before ++ [⟨id, .run kind (n + 1)⟩], 0, [], true⟩ := by
        simp only [g, planGrowth, growOverwrite, all_before, no_rest]
        rw [he', bump_front]
      rw [grown]
      exact ⟨⟨[], rfl, rfl, rfl, by simp⟩, by simp⟩
    | cons e post =>
      have e_covers : 1 ≤ e.count := covers e (by simp [he])
      have cut := Letter.cut_inside (p := l.sealB + spanOf before + n) he' front_span.le (by rw [front_span]; omega)
      obtain ⟨eid, body⟩ := e
      cases body with
      | speech held =>
        have grown : g = ⟨before ++ ⟨id, .run kind (n + 1)⟩ :: post, 1, held.toList, false⟩ := by
          simp only [g, planGrowth, growOverwrite, cut, bump_front]
          simp
        rw [grown]
        refine ⟨⟨post, rfl, ?_, rfl, ?_⟩, by simp⟩
        · simp only [spanOf_cons, Entry.count_speech]
          simp
          omega
        · rw [slotsOf_cons, Entry.slot_speech]
          exact List.perm_append_comm
      | run ekind m =>
        have grown : g = ⟨before ++ ⟨id, .run kind (n + 1)⟩ :: (runPiece eid ekind (m - 1) ++ post),
            if m ≤ 1 then 1 else 0, [], false⟩ := by
          simp only [g, planGrowth, growOverwrite, cut, bump_front]
          simp
        rw [Entry.count_run] at e_covers
        rw [grown]
        refine ⟨⟨runPiece eid ekind (m - 1) ++ post, rfl, ?_, ?_, ?_⟩, by simp⟩
        · simp only [spanOf_append, spanOf_runPiece, spanOf_cons, Entry.count_run]
          simp
          omega
        · simp only [List.length_append, runPiece_length, List.length_cons]
          split <;> split <;> omega
        · simp [slotsOf_append, slotsOf_cons]

/-- Settles O25: a placement and a growth step are what their lists around the entry say. -/
theorem placementAndGrowthTakeOnePosition : Obligations.PlacementAndGrowthTakeOnePosition := by
  constructor
  · intro mode l w spare new covers one low high p after
    obtain ⟨⟨front, back, puts⟩, longer, need⟩ := planEntry_puts mode new spare covers low high
    refine ⟨longer, ?_, ?_, ?_, ?_, need, fun no_slot => ?_⟩
    · rw [puts.edit, spanOf_eq_count_of_mem, one, ← puts.span]
      omega
    · exact Letter.entryAt_of_edit (l := after) puts.edit puts.starts one.ge
    · intro e he
      rw [puts.edit, List.mem_append, List.mem_cons] at he
      rcases he with he | rfl | he
      exacts [puts.covers e (List.mem_append_left _ he), one.ge, puts.covers e (List.mem_append_right _ he)]
    · rw [puts.edit, ← puts.records, List.length_append, List.length_cons]
      omega
    · rw [puts.edit, slotsOf_append, slotsOf_cons, no_slot]
      exact puts.slots
  · intro mode l before after id n kind covers he h1 h2 w g
    obtain ⟨⟨rest, grows⟩, longer⟩ :
        (∃ rest, g.Grows ⟨id, .run kind (n + 1)⟩ before after rest) ∧ (g.longer = true ↔ mode = .insert ∨ after = []) :=
      planGrowth_grows mode covers he h1 h2
    refine ⟨longer, ?_, ?_, ?_, ?_⟩
    · have span := grows.span
      rw [grows.edit, he, spanOf_eq_count_of_mem, spanOf_eq_count_of_mem, Entry.count_run, Entry.count_run]
      omega
    · rw [grows.edit]
      simp
    · have records := grows.records
      rw [grows.edit, he, List.length_append, List.length_append, List.length_cons, List.length_cons]
      omega
    · rw [grows.edit, he, slotsOf_append, slotsOf_append, slotsOf_cons, slotsOf_cons, List.append_assoc]
      exact List.Perm.append_left _ grows.slots

/-! ### Sealing (R48 to R50, R69) -/

theorem Entry.isPending_iff (e : Entry) : e.isPending = true ↔ e.body = .speech none := by
  obtain ⟨id, body⟩ := e
  cases body with
  | speech held => cases held <;> simp [Entry.isPending]
  | run kind n => simp [Entry.isPending]

/-- What sealing with a window moves ends at or before the length less the window and the start of the entry that holds
the cursor (R49). -/
theorem Letter.sealable_eq {l : Letter} (window : Nat) {before after : List Entry} {holder : Entry}
    (covers : ∀ e ∈ l.edit, 1 ≤ e.count) (he : l.edit = before ++ holder :: after)
    (length : l.length = l.sealB + spanOf l.edit)
    (holds : (l.sealB + spanOf before ≤ l.cursor ∧ l.cursor < l.sealB + spanOf before + holder.count) ∨
      (after = [] ∧ l.cursor = l.length)) :
    l.sealable window = sealSplit (min (l.length - window) (l.sealB + spanOf before)) l.sealB l.edit := by
  have start : holderStart l.cursor l.sealB l.edit = l.sealB + spanOf before := by
    rw [he]
    refine holderStart_eq before l.sealB holder after (by rwa [← he]) ?_
    rcases holds with inside | ⟨last, at_length⟩
    · exact Or.inl inside
    · exact Or.inr ⟨last, by rw [← he, at_length, length]⟩
  rw [Letter.sealable, start]

/-- A growing run is among the entries moved (R27). -/
theorem any_growing_eq (growing : Option Nat) (moved : List Entry) :
    (moved.any fun e => decide (growing = some e.id)) = growing.any fun g => moved.any fun e => decide (e.id = g) := by
  cases growing with
  | none => simp
  | some g => simp [eq_comm (a := g)]

theorem Works.raise_eq (k : Works) (kind : EventKind) (c detail : Nat) :
    k.raise kind c detail =
      { k with events :=
          if k.startup = .done then putEvent ⟨kind, c, BitVec.ofNat 32 detail, 0⟩ k.events else k.events } := by
  unfold Works.raise Works.raiseWith
  split <;> rfl

/-- The channel of a letter that seals: a growing run that is sealed ends (R27). -/
def Channel.afterSealing (ch : Channel) (moved : List Entry) : Channel :=
  { ch with det :=
      if ch.det.growing.any fun g => moved.any fun e => decide (e.id = g) then { ch.det with growing := none } else ch.det }

theorem Channel.afterSealing_eq (ch : Channel) (moved : List Entry) :
    ch.afterSealing moved =
      if moved.any fun e => decide (ch.det.growing = some e.id) then { ch with det := { ch.det with growing := none } }
      else ch := by
  rw [any_growing_eq, Channel.afterSealing]
  split <;> rfl

/-- Applying sealing to an ATTACHED letter, by what its channel's window lets seal (R48, R50). -/
theorem Works.applySealing_attached {k : Works} {i c : Nat} (attached : (k.letter i).state = .attached)
    (channel : (k.letter i).channel = some c) :
    let split := (k.letter i).sealable (k.chan c).settings.window
    (split.1 = [] → k.applySealing i = k) ∧
    (split.1 ≠ [] →
      k.applySealing i =
        { k with
          letters := k.letters.set i ((k.letter i).sealEntries split.1 split.2),
          chans := k.chans.set c ((k.chan c).afterSealing split.1),
          events :=
            if (k.letter i).sealedList = [] ∧ k.startup = .done then
              putEvent ⟨.sealReady, c, BitVec.ofNat 32 i, 0⟩ k.events
            else k.events }) := by
  intro split
  refine ⟨fun nothing => ?_, fun something => ?_⟩
  · unfold Works.applySealing
    simp only [attached, channel]
    rw [if_pos (List.isEmpty_iff.2 nothing)]
  · unfold Works.applySealing
    simp only [attached, channel, ← Channel.afterSealing_eq]
    rw [if_neg (mt List.isEmpty_iff.1 something)]
    by_cases empty : (k.letter i).sealedList = []
    · rw [if_pos (List.isEmpty_iff.2 empty), Works.raise_eq]
      simp only [empty, true_and]
      rfl
    · rw [if_neg (mt List.isEmpty_iff.1 empty)]
      simp only [empty, false_and, if_false]
      rfl

/-- Settles O26: the bound of the split is the two bounds of R49 together. -/
theorem sealingIsApplied : Obligations.SealingIsApplied := by
  constructor
  · intro l window before after holder covers he length start holds split t
    have split_eq : split = sealSplit (min (l.length - window) start) l.sealB l.edit :=
      Letter.sealable_eq window covers he length holds
    have whole : split.1 ++ split.2 = l.edit := by
      rw [split_eq]
      exact sealSplit_append _ _ _
    refine ⟨whole.symm, rfl, ?_, ?_, ?_, rfl, rfl, rfl⟩
    · intro front e rest moved stop
      have e_covers : 1 ≤ e.count := covers e (by rw [← whole, moved]; simp)
      rw [split_eq] at moved
      obtain ⟨ends, coded⟩ := sealSplit_moved moved
      refine ⟨by omega, by omega, fun pending => ?_, ?_⟩
      · rw [(e.isPending_iff).2 pending] at coded
        cases coded
      · show _ ∈ l.sealedList ++ withMarks l.marks l.sealB split.1
        rw [split_eq, moved]
        exact List.mem_append_right _ (withMarks_mem l.marks l.sealB front e rest)
    · rintro e rest kept stop ⟨in_window, before_holder, coded⟩
      have kept' : (sealSplit (min (l.length - window) start) l.sealB l.edit).2 = e :: rest := by
        rw [← split_eq]
        exact kept
      have stop_eq : stop = l.sealB + spanOf split.1 + e.count := rfl
      rw [split_eq] at stop_eq
      refine sealSplit_kept kept' ⟨by omega, ?_⟩
      rw [Bool.eq_false_iff, ne_eq, e.isPending_iff]
      exact coded
    · show (l.sealedList ++ withMarks l.marks l.sealB split.1).map SealedEntry.entry = _
      rw [List.map_append, withMarks_entries]
  · intro k i c attached channel l split ch det
    exact Works.applySealing_attached attached channel

end Sys2Proof.Machine

/-! PROOFS. What the work of a recording span is made of.

`Works.SpanMoves R` says that a relation between works holds across each elementary move that a RECORDING channel makes: a
calm change of a channel, a count or a flag, a placement, a growth step, a sealing. The walk over the detector and the
placing of items is made once for every such relation (`Works.SpanMoves.decideFrame`, `Works.SpanMoves.releaseHeld`). -/

namespace Sys2Proof.Machine

/-! ### Calm changes -/

/-- A change of a channel that touches neither the accounting nor the order of letters: its letter, its waiting frames and
what its feed queue holds stay, a growing run of a dictation channel stays or ends, and a review goes on as it is or is
over. -/
structure Channel.Calm (ch ch' : Channel) : Prop where
  kind : ch'.kind = ch.kind
  letter : ch'.letter = ch.letter
  closed : ch'.state = .closed ↔ ch.state = .closed
  capture : ch'.capture = ch.capture
  feedIds : ch'.feed.map FeedRec.id = ch.feed.map FeedRec.id
  feedSlots : feedSlotsOf ch'.feed = feedSlotsOf ch.feed
  growing : ch'.det.growing = none ∨
    (ch'.det.growing = ch.det.growing ∧ (ch.kind = .dictation → ch.state = .recording → ch'.state = .recording))
  review : ch'.state = .reviewing → ch.state = .reviewing ∧
    (ch.kind ≠ .dictation ∨ (ch'.playPoint = ch.playPoint ∧ ch'.stopPoint = ch.stopPoint))
  frames : ch.kind = .dictation → ch.state = .recording ∨ ch.state = .draining →
    (ch'.state = .recording ∨ ch'.state = .draining) ∨ ch.capture = []

/-- A change of fields that no invariant of letters and pools reads. -/
theorem Channel.Calm.of_fields {ch ch' : Channel} (kind : ch'.kind = ch.kind) (state : ch'.state = ch.state)
    (letter : ch'.letter = ch.letter) (capture : ch'.capture = ch.capture) (feed : ch'.feed = ch.feed)
    (growing : ch'.det.growing = ch.det.growing) (play : ch'.playPoint = ch.playPoint)
    (stop : ch'.stopPoint = ch.stopPoint) : ch.Calm ch' where
  kind := kind
  letter := letter
  closed := by rw [state]
  capture := capture
  feedIds := by rw [feed]
  feedSlots := by rw [feed]
  growing := .inr ⟨growing, fun _ h => state ▸ h⟩
  review h := ⟨state ▸ h, .inr ⟨play, stop⟩⟩
  frames _ h := .inl (state ▸ h)

theorem Channel.Calm.refl (ch : Channel) : ch.Calm ch := .of_fields rfl rfl rfl rfl rfl rfl rfl rfl

/-- The span ends on a channel that is not CLOSED (R82). -/
theorem Channel.Calm.endSpan {ch : Channel} (h : ch.state = .recording) : ch.Calm ch.endSpan where
  kind := rfl
  letter := rfl
  closed := by
    unfold Channel.endSpan
    dsimp only
    split <;> simp [h]
  capture := rfl
  feedIds := rfl
  feedSlots := rfl
  growing := .inl rfl
  review := by
    unfold Channel.endSpan
    dsimp only
    split <;> simp
  frames _ _ := by
    unfold Channel.endSpan
    dsimp only
    split
    · rename_i empty
      exact .inr (List.isEmpty_iff.1 empty)
    · exact .inl (.inr rfl)

/-- A change of a letter that keeps its entries and its place: counts and flags, and marks that leave the table. -/
structure Letter.Calm (l l' : Letter) : Prop where
  state : l'.state = l.state
  channel : l'.channel = l.channel
  edit : l'.edit = l.edit
  sealedList : l'.sealedList = l.sealedList
  cursor : l'.cursor = l.cursor
  sealB : l'.sealB = l.sealB
  length : l'.length = l.length
  marks : l'.marks.Sublist l.marks
  endTaken : l'.endTaken = l.endTaken

/-- Works that hold the same letters, channels, entries, slots and flags: low marks, mask, rotation pointer and draws may
differ. -/
structure Works.SameHoldings (k k' : Works) : Prop where
  startup : k'.startup = k.startup
  chans : k'.chans = k.chans
  letters : k'.letters = k.letters
  freeEntries : k'.freeEntries = k.freeEntries
  nextEntry : k'.nextEntry = k.nextEntry
  freePool : k'.freePool = k.freePool
  factory : k'.factory = k.factory
  defects : k'.defects = k.defects
  unlisted : k'.unlisted = k.unlisted
  job : k'.job = k.job
  checked : k'.checked = k.checked
  scanBad : k'.scanBad = k.scanBad
  events : k'.events = k.events

/-! ### The moves of a span -/

/-- A relation between works that holds across every elementary move of a recording span. -/
structure Works.SpanMoves (R : Works → Works → Prop) : Prop where
  refl : ∀ k, R k k
  trans : ∀ {a b c : Works}, R a b → R b c → R a c
  other : ∀ {k k' : Works}, k.SameHoldings k' → R k k'
  raise : ∀ (k : Works) (kind : EventKind) (chan : Nat) (detail : BitVec 32) (label : BitVec 16),
    R k (k.raiseWith kind chan detail label)
  channels : ∀ (k : Works) {chans : List Channel}, List.Forall₂ Channel.Calm k.chans chans → R k { k with chans := chans }
  letter : ∀ (k : Works) (i : Nat) (g : Letter → Letter), (k.letter i).Calm (g (k.letter i)) → R k (k.modLetter i g)
  sealing : ∀ (k : Works) (i : Nat), R k (k.applySealing i)
  placeRun : ∀ {k k' : Works} {c i : Nat} {mode : RecMode} {kind : RunKind} {id : Nat} {grew : Bool},
    (k.chan c).letter = some i → (k.chan c).state = .recording →
    k.placeEntry i mode (.run kind 1) = .placed k' id grew → R k (k'.modDet c fun d => { d with growing := some id })
  placeSpeech : ∀ {k k' : Works} {c i : Nat} {mode : RecMode} {id : Nat} {grew : Bool} (f : Frame),
    (k.chan c).letter = some i → (k.chan c).state = .recording → (k.chan c).det.growing = none →
    k.placeEntry i mode (.speech none) = .placed k' id grew → R k (k'.modChan c fun ch => ch.keepFrame f id)
  grow : ∀ {k : Works} {c i id n : Nat} {kind : RunKind} (mode : RecMode), (k.chan c).letter = some i →
    (k.chan c).state = .recording → (k.chan c).det.growing = some id →
    (k.letter i).growingRun (some id) = some (kind, n) → (k.letter i).markAt (k.letter i).cursor = false →
    ((planGrowth mode (k.letter i) (k.letter i).cursor id).longer = true → (k.letter i).length < Config.maxLength) →
    R k ((k.modLetter i fun l => l.withGrowth mode (planGrowth mode (k.letter i) (k.letter i).cursor id)).giveBack
      (planGrowth mode (k.letter i) (k.letter i).cursor id).returned
      (planGrowth mode (k.letter i) (k.letter i).cursor id).freed)

/-! ### Facts that the walk carries along -/

/-- A channel that is changed reads as changed, or there is no such channel. -/
theorem Works.chan_modChan_cases (k : Works) (c : Nat) (f : Channel → Channel) :
    (k.modChan c f).chan c = f (k.chan c) ∨ (k.modChan c f).chan c = k.chan c := by
  by_cases h : c < k.chans.length
  · exact .inl (k.chan_modChan_self c f h)
  · right
    have h' : k.chans.length ≤ c := Nat.le_of_not_lt h
    simp [Works.modChan, Works.chan, List.set_eq_of_length_le h']

/-- A channel that is not there reads as a CLOSED one. -/
theorem Works.lt_of_state {k : Works} {c : Nat} (h : (k.chan c).state ≠ .closed) : c < k.chans.length := by
  by_contra hc
  exact h (by simp [Works.chan, hc, Channel.initial])

/-- A letter record that is not there reads as a FREE one. -/
theorem Works.lt_of_letter_state {k : Works} {i : Nat} (h : (k.letter i).state ≠ .free) : i < k.letters.length := by
  by_contra hc
  exact h (by simp [Works.letter, hc, Letter.freeRecord])

@[simp] theorem Works.raiseWith_chans (k : Works) (kind : EventKind) (c : Nat) (d : BitVec 32) (l : BitVec 16) :
    (k.raiseWith kind c d l).chans = k.chans := by rw [Works.raiseWith_eq]

@[simp] theorem Works.raiseWith_letters (k : Works) (kind : EventKind) (c : Nat) (d : BitVec 32) (l : BitVec 16) :
    (k.raiseWith kind c d l).letters = k.letters := by rw [Works.raiseWith_eq]

@[simp] theorem Works.chan_raiseWith (k : Works) (kind : EventKind) (c e : Nat) (d : BitVec 32) (l : BitVec 16) :
    (k.raiseWith kind c d l).chan e = k.chan e := by simp [Works.chan]

@[simp] theorem Works.letter_raiseWith (k : Works) (kind : EventKind) (c i : Nat) (d : BitVec 32) (l : BitVec 16) :
    (k.raiseWith kind c d l).letter i = k.letter i := by simp [Works.letter]

@[simp] theorem Works.chan_given (k : Works) (n c : Nat) (slots : List Nat) : (k.given n slots).chan c = k.chan c := rfl

@[simp] theorem Works.chan_giveBack (k : Works) (n c : Nat) (slots : List Nat) :
    (k.giveBack n slots).chan c = k.chan c := by rw [Works.giveBack_eq_given, Works.chan_given]

theorem Works.chan_of_chans_eq {k k' : Works} (h : k'.chans = k.chans) (c : Nat) : k'.chan c = k.chan c := by
  rw [Works.chan, h, Works.chan]

/-- A change of the detector keeps the channel's state and letter. -/
theorem Works.chan_modDet (k : Works) (c : Nat) (f : Detector → Detector) :
    ((k.modDet c f).chan c).state = (k.chan c).state ∧ ((k.modDet c f).chan c).letter = (k.chan c).letter := by
  rcases k.chan_modChan_cases c fun ch => { ch with det := f ch.det } with h | h <;>
    exact ⟨by rw [Works.modDet, h], by rw [Works.modDet, h]⟩

theorem Works.chan_foldl_countSqueezed (k : Works) (c i : Nat) (frames : List Frame) :
    (frames.foldl (fun acc _ => acc.countSqueezed i) k).chan c = k.chan c := by
  induction frames generalizing k with
  | nil => rfl
  | cons f rest ih => exact ih _

/-- A placement works on the letter and the pools. -/
theorem Works.placeEntry_placed {k k' : Works} {i id : Nat} {mode : RecMode} {body : EntryBody} {grew : Bool}
    (h : k.placeEntry i mode body = .placed k' id grew) :
    let p := planEntry mode (k.letter i) (k.letter i).cursor ⟨k.nextEntry, body⟩ (k.nextEntry + 1)
    (p.longer = true → (k.letter i).length < Config.maxLength) ∧ p.need ≤ k.freeEntries ∧ id = k.nextEntry ∧
      grew = p.longer ∧ k' = (k.modLetter i fun l => l.withPlan mode p).afterPlan p := by
  unfold Works.placeEntry at h
  dsimp only at h ⊢
  split at h
  · simp at h
  · rename_i limit
    split at h
    · simp at h
    · rename_i enough
      simp only [Placed.placed.injEq] at h
      obtain ⟨rfl, rfl, rfl⟩ := h
      simp only [Bool.and_eq_true, decide_eq_true_eq, not_and, not_le, not_lt] at limit enough
      exact ⟨limit, enough, rfl, rfl, rfl⟩

theorem Works.afterPlan_chans (k : Works) (p : Plan) : (k.afterPlan p).chans = k.chans := by
  unfold Works.afterPlan
  dsimp only
  split
  · rw [Works.entriesFreed_armed, Works.entriesTaken_lowered]
    split
    · rfl
    · rw [Works.slotsFreed_armed]
  · rw [Works.entriesTaken_lowered]
    split
    · rfl
    · rw [Works.slotsFreed_armed]

theorem Works.placeEntry_chans {k k' : Works} {i id : Nat} {mode : RecMode} {body : EntryBody} {grew : Bool}
    (h : k.placeEntry i mode body = .placed k' id grew) : k'.chans = k.chans := by
  obtain ⟨-, -, -, -, rfl⟩ := Works.placeEntry_placed h
  rw [Works.afterPlan_chans, Works.modLetter_chans]

/-- Sealing changes of a channel nothing but its growing run, which may end (R27). -/
theorem Works.chan_applySealing (k : Works) (i d : Nat) :
    (k.applySealing i).chan d = k.chan d ∨
      (k.applySealing i).chan d = { k.chan d with det := { (k.chan d).det with growing := none } } := by
  have ended : ∀ (k' : Works) (c : Nat) (p : Channel → Prop) [DecidablePred p],
      ((k'.modChan c fun ch => if p ch then { ch with det := { ch.det with growing := none } } else ch).chan d =
          k'.chan d) ∨
        (k'.modChan c fun ch => if p ch then { ch with det := { ch.det with growing := none } } else ch).chan d =
          { k'.chan d with det := { (k'.chan d).det with growing := none } } := by
    intro k' c p _
    by_cases hd : d = c
    · subst hd
      rcases k'.chan_modChan_cases d fun ch => if p ch then { ch with det := { ch.det with growing := none } } else ch
        with h | h
      · rw [h]
        split
        · exact .inr rfl
        · exact .inl rfl
      · exact .inl h
    · exact .inl (k'.chan_modChan_ne c d _ hd)
  unfold Works.applySealing
  dsimp only
  split
  · split
    · exact .inl rfl
    · split
      · simp only [Works.raise, Works.chan_raiseWith]
        exact ended _ _ _
      · exact ended _ _ _
  · exact .inl rfl

theorem Works.applySealing_kept (k : Works) (i d : Nat) :
    ((k.applySealing i).chan d).letter = (k.chan d).letter ∧ ((k.applySealing i).chan d).state = (k.chan d).state ∧
      ((k.applySealing i).chan d).kind = (k.chan d).kind ∧ ((k.applySealing i).chan d).recMode = (k.chan d).recMode := by
  rcases k.chan_applySealing i d with h | h <;> rw [h] <;> exact ⟨rfl, rfl, rfl, rfl⟩

/-- A recording mode stands only while its channel is RECORDING: what the work of one span starts from. -/
def Channel.RecordsOnly (ch : Channel) : Prop := ch.recMode ≠ none → ch.state = .recording

/-- The work of a recording span on channel `c`: a move after which the channel has the letter that it had. -/
structure Works.Span (R : Works → Works → Prop) (c : Nat) (k k' : Works) : Prop where
  moved : R k k'
  letter : (k'.chan c).letter = (k.chan c).letter
  only : (k'.chan c).RecordsOnly

namespace Works.SpanMoves

section

variable {R : Works → Works → Prop} (M : Works.SpanMoves R)
include M

/-! ### Changes of one channel, flags and low marks -/

theorem modChan {k : Works} {c : Nat} {f : Channel → Channel} (h : (k.chan c).Calm (f (k.chan c))) :
    R k (k.modChan c f) := by
  refine M.channels k (List.forall₂_iff_get.2 ⟨by simp, fun d h1 h2 => ?_⟩)
  rw [List.get_eq_getElem, List.get_eq_getElem]
  by_cases hd : c = d
  · subst hd
    have e : k.chan c = k.chans[c] := by simp [Works.chan, h1]
    simpa [e] using h
  · simpa [List.getElem_set_ne hd] using Channel.Calm.refl _

theorem modChan_fields {k : Works} {c : Nat} {f : Channel → Channel} (kind : (f (k.chan c)).kind = (k.chan c).kind)
    (state : (f (k.chan c)).state = (k.chan c).state) (letter : (f (k.chan c)).letter = (k.chan c).letter)
    (capture : (f (k.chan c)).capture = (k.chan c).capture) (feed : (f (k.chan c)).feed = (k.chan c).feed)
    (growing : (f (k.chan c)).det.growing = (k.chan c).det.growing)
    (play : (f (k.chan c)).playPoint = (k.chan c).playPoint)
    (stop : (f (k.chan c)).stopPoint = (k.chan c).stopPoint) : R k (k.modChan c f) :=
  M.modChan (.of_fields kind state letter capture feed growing play stop)

theorem slotsTaken (k : Works) : R k k.slotsTaken := by
  unfold Works.slotsTaken
  split
  · exact M.trans (b := { k with slotArmed := false }) (M.other ⟨rfl, rfl, rfl, rfl, rfl, rfl, rfl, rfl, rfl, rfl, rfl, rfl, rfl⟩) (M.raise _ _ _ _ _)
  · exact M.refl k

theorem entriesTaken (k : Works) : R k k.entriesTaken := by
  unfold Works.entriesTaken
  split
  · exact M.trans (b := { k with entryArmed := false }) (M.other ⟨rfl, rfl, rfl, rfl, rfl, rfl, rfl, rfl, rfl, rfl, rfl, rfl, rfl⟩) (M.raise _ _ _ _ _)
  · exact M.refl k

theorem setSlotMark (k : Works) (mark : Nat) : R k (k.setSlotMark mark) :=
  M.trans (b := { k with slotMark := mark, slotArmed := true }) (M.other ⟨rfl, rfl, rfl, rfl, rfl, rfl, rfl, rfl, rfl, rfl, rfl, rfl, rfl⟩) (M.slotsTaken _)

theorem setEntryMark (k : Works) (mark : Nat) : R k (k.setEntryMark mark) :=
  M.trans (b := { k with entryMark := mark, entryArmed := true }) (M.other ⟨rfl, rfl, rfl, rfl, rfl, rfl, rfl, rfl, rfl, rfl, rfl, rfl, rfl⟩) (M.entriesTaken _)

/-! ### The span of a recording (R82 to R110) -/

theorem span_refl {k : Works} {c : Nat} (h : (k.chan c).RecordsOnly) : Works.Span R c k k := ⟨M.refl k, rfl, h⟩

theorem span_trans {a b d : Works} {c : Nat} (h : Works.Span R c a b) (h' : (b.chan c).RecordsOnly → Works.Span R c b d) :
    Works.Span R c a d :=
  ⟨M.trans h.moved (h' h.only).moved, (h' h.only).letter.trans h.letter, (h' h.only).only⟩

theorem span_modChan {k : Works} {c : Nat} {f : Channel → Channel} (only : (k.chan c).RecordsOnly)
    (calm : (k.chan c).Calm (f (k.chan c))) (only' : (f (k.chan c)).RecordsOnly) : Works.Span R c k (k.modChan c f) := by
  refine ⟨M.modChan calm, ?_, ?_⟩ <;> rcases k.chan_modChan_cases c f with h | h <;> rw [h]
  · exact calm.letter
  · exact only'
  · exact only

theorem span_raise {k : Works} {c : Nat} (only : (k.chan c).RecordsOnly) (kind : EventKind) (e : Nat) (d : BitVec 32)
    (l : BitVec 16) : Works.Span R c k (k.raiseWith kind e d l) :=
  ⟨M.raise k kind e d l, by simp, by simpa using only⟩

theorem span_seal {k : Works} {c : Nat} (only : (k.chan c).RecordsOnly) (i : Nat) :
    Works.Span R c k (k.applySealing i) := by
  obtain ⟨letter, state, -, recMode⟩ := k.applySealing_kept i c
  exact ⟨M.sealing k i, letter, by rwa [Channel.RecordsOnly, state, recMode]⟩

theorem span_countSqueezed {k : Works} {c : Nat} (only : (k.chan c).RecordsOnly) (i : Nat) :
    Works.Span R c k (k.countSqueezed i) :=
  ⟨M.letter k i _ ⟨rfl, rfl, rfl, rfl, rfl, rfl, rfl, List.Sublist.refl _, rfl⟩, rfl, only⟩

theorem span_foldl {α : Type} {c : Nat} {f : Works → α → Works} (xs : List α)
    (each : ∀ {k : Works} (x : α), (k.chan c).RecordsOnly → Works.Span R c k (f k x)) {k : Works}
    (only : (k.chan c).RecordsOnly) : Works.Span R c k (xs.foldl f k) := by
  induction xs generalizing k with
  | nil => exact M.span_refl only
  | cons x xs ih => exact M.span_trans (each x only) fun h => ih h

theorem span_modDet {k : Works} {c : Nat} {f : Detector → Detector} (only : (k.chan c).RecordsOnly)
    (growing : (f (k.chan c).det).growing = none ∨ (f (k.chan c).det).growing = (k.chan c).det.growing) :
    Works.Span R c k (k.modDet c f) := by
  refine M.span_modChan only ?_ only
  exact ⟨rfl, rfl, Iff.rfl, rfl, rfl, rfl, growing.imp_right fun h => ⟨h, fun _ => id⟩, fun h => ⟨h, .inr ⟨rfl, rfl⟩⟩,
    fun _ => .inl⟩

/-! ### Items of a span: the length limit, runs, speech frames (R40 to R47, R110) -/

theorem span_foldl_countSqueezed {k : Works} {c : Nat} (only : (k.chan c).RecordsOnly) (i : Nat) (frames : List Frame) :
    Works.Span R c k (frames.foldl (fun acc _ => acc.countSqueezed i) k) :=
  M.span_foldl frames (fun _ h => M.span_countSqueezed h i) only

theorem span_letterFull {k : Works} {c : Nat} (recording : (k.chan c).state = .recording) (i : Nat) :
    Works.Span R c k (k.letterFull c i) := by
  have only : (k.chan c).RecordsOnly := fun _ => recording
  have exists_ : c < k.chans.length := Works.lt_of_state (by simp [recording])
  unfold Works.letterFull Works.implicitStop
  dsimp only
  generalize held_eq : ((k.raise .letterFull c i).chan c).det.hold = held
  have raised : Works.Span R c k (k.raise .letterFull c i) := M.span_raise only _ _ _ _
  have chan_eq : (held.foldl (fun acc _ => acc.countSqueezed i) (k.raise .letterFull c i)).chan c = k.chan c := by
    rw [Works.chan_foldl_countSqueezed, Works.raise, Works.chan_raiseWith]
  have counted := M.span_foldl_countSqueezed raised.only i held
  refine M.span_trans raised fun _ => M.span_trans counted fun h => M.span_trans
    (M.span_modDet (f := fun d => { d with hold := [], loud := 0 }) h (.inr rfl)) fun h' => ?_
  have chan_eq' := Works.chan_modChan_cases (held.foldl (fun acc _ => acc.countSqueezed i) (k.raise .letterFull c i)) c
    fun ch => { ch with det := { ch.det with hold := [], loud := 0 } }
  rw [chan_eq] at chan_eq'
  refine M.span_modChan h' (Channel.Calm.endSpan ?_) fun h => absurd rfl h
  rcases chan_eq' with e | e <;> simp only [Works.modDet, e, recording]

theorem span_afterPlacement {k : Works} {c : Nat} (recording : (k.chan c).state = .recording) (i : Nat) (grew : Bool) :
    Works.Span R c k (k.afterPlacement c i grew) := by
  unfold Works.afterPlacement
  dsimp only
  split
  · exact M.span_trans (M.span_letterFull recording i) fun h => M.span_seal h i
  · exact M.span_seal (fun _ => recording) i

theorem span_overLimit {k : Works} {c : Nat} (recording : (k.chan c).state = .recording) (i : Nat) :
    Works.Span R c k ((k.countSqueezed i).letterFull c i) :=
  M.span_trans (M.span_countSqueezed (fun _ => recording) i) fun _ =>
    M.span_letterFull (k := k.countSqueezed i) recording i

theorem span_countDropped {k : Works} {c : Nat} (only : (k.chan c).RecordsOnly) :
    Works.Span R c k (k.countDropped c) :=
  M.span_modChan only (.of_fields rfl rfl rfl rfl rfl rfl rfl rfl) only

theorem span_short {k : Works} {c : Nat} (only : (k.chan c).RecordsOnly) :
    Works.Span R c k ((k.countDropped c).raiseCount .poolEmpty c) :=
  M.span_trans (M.span_countDropped only) fun h => M.span_raise h _ _ _ _

theorem span_growRun {k : Works} {c i id n : Nat} {kind : RunKind} (mode : RecMode) (letter : (k.chan c).letter = some i)
    (recording : (k.chan c).state = .recording) (growing : (k.chan c).det.growing = some id)
    (run : (k.letter i).growingRun (some id) = some (kind, n)) (no_mark : (k.letter i).markAt (k.letter i).cursor = false) :
    Works.Span R c k (k.growRun c i mode id) := by
  unfold Works.growRun
  dsimp only
  split
  · exact M.span_overLimit recording i
  · rename_i room
    simp only [Bool.and_eq_true, decide_eq_true_eq, not_and, not_le] at room
    have grown : Works.Span R c k _ :=
      ⟨M.grow mode letter recording growing run no_mark room, by simp, fun _ => by simpa using recording⟩
    exact M.span_trans grown fun _ => M.span_afterPlacement (by simpa using recording) i _

theorem span_newRun {k : Works} {c i : Nat} (mode : RecMode) (kind : RunKind) (letter : (k.chan c).letter = some i)
    (recording : (k.chan c).state = .recording) : Works.Span R c k (k.newRun c i mode kind) := by
  unfold Works.newRun
  dsimp only
  have ended : Works.Span R c k (k.modDet c fun d => { d with growing := none }) :=
    M.span_modDet (fun _ => recording) (.inl rfl)
  obtain ⟨state, same⟩ := Works.chan_modDet k c fun d => { d with growing := none }
  rw [recording] at state
  rw [letter] at same
  refine M.span_trans ended fun only => ?_
  split
  · exact M.span_overLimit state i
  · exact M.span_short only
  · rename_i k2 id grew placed
    obtain ⟨state', same'⟩ := Works.chan_modDet k2 c fun d => { d with growing := some id }
    have chan_eq := Works.chan_of_chans_eq (Works.placeEntry_chans placed) c
    rw [chan_eq] at state' same'
    have moved : Works.Span R c (k.modDet c fun d => { d with growing := none })
        (k2.modDet c fun d => { d with growing := some id }) :=
      ⟨M.placeRun same state placed, same', fun _ => state'.trans state⟩
    exact M.span_trans moved fun _ => M.span_afterPlacement (state'.trans state) i grew

theorem span_runItem {k : Works} {c i : Nat} (mode : RecMode) (kind : RunKind) (letter : (k.chan c).letter = some i)
    (recording : (k.chan c).state = .recording) : Works.Span R c k (k.runItem c i mode kind) := by
  unfold Works.runItem
  dsimp only
  split
  · rename_i id held n growing run
    rw [growing] at run
    split
    · rename_i beside
      simp only [Bool.and_eq_true, Bool.not_eq_true'] at beside
      split
      · exact M.span_growRun mode letter recording growing run beside.2
      · exact M.span_countSqueezed (fun _ => recording) i
    · exact M.span_newRun mode kind letter recording
  · exact M.span_newRun mode kind letter recording

theorem span_decideRun {k : Works} {c : Nat} (only : (k.chan c).RecordsOnly) (kind : RunKind) :
    Works.Span R c k (k.decideRun c kind) := by
  unfold Works.decideRun
  dsimp only
  split
  · rename_i i mode letter recMode
    have recording : (k.chan c).state = .recording := only (by simp [recMode])
    obtain ⟨state, same⟩ := Works.chan_modDet k c fun d => { d with prevKept := false }
    exact M.span_trans (M.span_modDet only (.inr rfl)) fun _ =>
      M.span_runItem mode kind (same.trans letter) (state.trans recording)
  · exact M.span_countSqueezed only _
  · exact M.span_refl only

theorem span_overrunFrame {k : Works} {c : Nat} (only : (k.chan c).RecordsOnly) :
    Works.Span R c k (k.overrunFrame c) :=
  M.span_trans (M.span_modChan only (.of_fields rfl rfl rfl rfl rfl rfl rfl rfl) only) fun h =>
    M.span_trans (M.span_raise h _ _ _ _) fun h' => M.span_decideRun h' .lost

theorem span_speechItem {k : Works} {c i : Nat} (mode : RecMode) (f : Frame) (letter : (k.chan c).letter = some i)
    (recording : (k.chan c).state = .recording) : Works.Span R c k (k.speechItem c i mode f) := by
  have exists_ : c < k.chans.length := Works.lt_of_state (by simp [recording])
  unfold Works.speechItem
  dsimp only
  have ended : Works.Span R c k (k.modDet c fun d => { d with growing := none }) :=
    M.span_modDet (fun _ => recording) (.inl rfl)
  obtain ⟨state, same⟩ := Works.chan_modDet k c fun d => { d with growing := none }
  rw [recording] at state
  rw [letter] at same
  have no_run : ((k.modDet c fun d => { d with growing := none }).chan c).det.growing = none := by
    rw [Works.modDet, Works.chan_modChan_self _ _ _ exists_]
  refine M.span_trans ended fun only => ?_
  split
  · refine M.span_trans (M.span_countDropped only) fun _ => M.span_letterFull ?_ i
    rcases Works.chan_modChan_cases (k.modDet c fun d => { d with growing := none }) c
      (fun ch => { ch with dropped := sat16 ch.dropped, det := { ch.det with prevKept := false } }) with e | e <;>
      rw [Works.countDropped, e] <;> exact state
  · exact M.span_short only
  · rename_i k2 id grew placed
    have chan_eq := Works.chan_of_chans_eq (Works.placeEntry_chans placed) c
    have kept : ((k2.modChan c fun ch => ch.keepFrame f id).chan c).state = .recording ∧
        ((k2.modChan c fun ch => ch.keepFrame f id).chan c).letter = some i := by
      rcases Works.chan_modChan_cases k2 c (fun ch => ch.keepFrame f id) with e | e <;> rw [e] <;>
        simp only [Channel.keepFrame, chan_eq, state, same, and_self]
    have moved : Works.Span R c (k.modDet c fun d => { d with growing := none })
        (k2.modChan c fun ch => ch.keepFrame f id) :=
      ⟨M.placeSpeech f same state no_run placed, kept.2.trans same.symm, fun _ => kept.1⟩
    exact M.span_trans moved fun _ => M.span_afterPlacement kept.1 i grew

theorem span_decideSpeech {k : Works} {c : Nat} (only : (k.chan c).RecordsOnly) (f : Frame) :
    Works.Span R c k (k.decideSpeech c f) := by
  unfold Works.decideSpeech
  dsimp only
  split
  · rename_i i mode letter recMode
    split
    · exact M.span_overrunFrame only
    · exact M.span_speechItem mode f letter (only (by simp [recMode]))
  · exact M.span_countDropped only
  · exact M.span_refl only

/-! ### The detector (R18 to R29) -/

theorem span_releaseHeld {k : Works} {c : Nat} (only : (k.chan c).RecordsOnly) :
    Works.Span R c k (k.releaseHeld c) := by
  unfold Works.releaseHeld
  dsimp only
  refine M.span_trans (M.span_modDet (f := fun d => { d with hold := [] }) only (.inr rfl)) fun h => ?_
  refine M.span_trans (M.span_foldl (f := fun acc (_ : Frame) => acc.decideRun c .pause) (k.chan c).det.hold
    (fun _ h' => M.span_decideRun h' .pause) h) fun h' => ?_
  exact M.span_modDet h' (.inr rfl)

theorem span_frameInSpeech {k : Works} {c : Nat} (only : (k.chan c).RecordsOnly) (f : Frame) :
    Works.Span R c k (k.frameInSpeech c f) := by
  unfold Works.frameInSpeech
  dsimp only
  split
  · split
    · exact M.span_trans (M.span_modDet only (.inr rfl)) fun h => M.span_decideSpeech h f
    · exact M.span_trans (M.span_modDet only (.inl rfl)) fun h => M.span_decideRun h .pause
  · exact M.span_trans (M.span_modDet only (.inr rfl)) fun h => M.span_decideSpeech h f

theorem span_frameInPause {k : Works} {c : Nat} (only : (k.chan c).RecordsOnly) (f : Frame) :
    Works.Span R c k (k.frameInPause c f) := by
  unfold Works.frameInPause
  dsimp only
  split
  · exact M.span_trans (M.span_releaseHeld only) fun h => M.span_decideRun h .pause
  · split
    · exact M.span_modDet only (.inr rfl)
    · exact M.span_trans (M.span_modDet only (.inr rfl)) fun h =>
        M.span_foldl _ (fun g h' => M.span_decideSpeech h' g) h

theorem span_lostFrame {k : Works} {c : Nat} (only : (k.chan c).RecordsOnly) : Works.Span R c k (k.lostFrame c) :=
  M.span_trans (M.span_releaseHeld only) fun h =>
    M.span_trans (M.span_decideRun h .lost) fun h' => M.span_modDet h' (.inr rfl)

theorem span_decideFrame {k : Works} {c : Nat} (only : (k.chan c).RecordsOnly) (locked : Bool) (f : Frame) :
    Works.Span R c k (k.decideFrame c locked f) := by
  unfold Works.decideFrame
  split
  · split
    · exact M.span_frameInSpeech only f
    · exact M.span_frameInPause only f
  · exact M.span_lostFrame only

end

end Works.SpanMoves

end Sys2Proof.Machine

/-! PROOFS. The motion requests (05_channels_motion_and_settings.md): RECORD, STOP, WIND, REVIEW.

What the work of a span keeps at every channel is the first use of `Works.SpanMoves` (`Works.Shape`): the numbers of
channels and letters, the start-up state, and that no channel comes to review by it. -/

namespace Sys2Proof.Machine

/-! ### What a span keeps -/

/-- As many channels and letters as before, the same start-up state, and no channel REVIEWING that was not. -/
structure Works.Shape (k k' : Works) : Prop where
  chans : k'.chans.length = k.chans.length
  letters : k'.letters.length = k.letters.length
  startup : k'.startup = k.startup
  review : ∀ c, (k.chan c).state ≠ .reviewing → (k'.chan c).state ≠ .reviewing

theorem Works.afterPlan_letters (k : Works) (p : Plan) :
    (k.afterPlan p).letters = k.letters ∧ (k.afterPlan p).startup = k.startup := by
  unfold Works.afterPlan
  dsimp only
  split
  · rw [Works.entriesFreed_armed, Works.entriesTaken_lowered]
    split
    · exact ⟨rfl, rfl⟩
    · rw [Works.slotsFreed_armed]
      exact ⟨rfl, rfl⟩
  · rw [Works.entriesTaken_lowered]
    split
    · exact ⟨rfl, rfl⟩
    · rw [Works.slotsFreed_armed]
      exact ⟨rfl, rfl⟩

/-- A change of one channel that does not make it REVIEWING keeps the shape. -/
theorem Works.Shape.modChan {k k' : Works} (chans : k'.chans = k.chans) (letters : k'.letters.length = k.letters.length)
    (startup : k'.startup = k.startup) {c : Nat} {f : Channel → Channel}
    (state : (f (k.chan c)).state = (k.chan c).state) : k.Shape (k'.modChan c f) := by
  refine ⟨by rw [Works.modChan_chans_length, chans], letters, startup, fun d h => ?_⟩
  have same := Works.chan_of_chans_eq chans
  by_cases hd : d = c
  · subst hd
    rcases k'.chan_modChan_cases d f with e | e <;> rw [e, same]
    · rwa [state]
    · exact h
  · rwa [Works.chan_modChan_ne _ _ _ _ hd, same]

theorem forall₂_getD {α : Type} {r : α → α → Prop} {xs ys : List α} (h : List.Forall₂ r xs ys) (n : Nat) {d : α}
    (hd : r d d) : r (xs.getD n d) (ys.getD n d) := by
  induction h generalizing n with
  | nil => exact hd
  | cons hxy _ ih =>
    cases n with
    | zero => exact hxy
    | succ n => exact ih n

theorem Works.applySealing_lengths (k : Works) (i : Nat) :
    (k.applySealing i).chans.length = k.chans.length ∧ (k.applySealing i).letters.length = k.letters.length ∧
      (k.applySealing i).startup = k.startup := by
  refine ⟨?_, ?_, by rw [Works.applySealing_eq]⟩ <;>
  · unfold Works.applySealing
    dsimp only
    split
    · split
      · rfl
      · split <;> simp [Works.raise]
    · rfl

theorem Works.shape_spanMoves : Works.SpanMoves Works.Shape where
  refl _ := ⟨rfl, rfl, rfl, fun _ h => h⟩
  trans h h' := ⟨h'.chans.trans h.chans, h'.letters.trans h.letters, h'.startup.trans h.startup,
    fun c hc => h'.review c (h.review c hc)⟩
  other h := ⟨by rw [h.chans], by rw [h.letters], h.startup, fun c hc => by rwa [Works.chan_of_chans_eq h.chans]⟩
  raise k kind chan detail label := ⟨by simp, by simp, by rw [Works.raiseWith_eq], fun c hc => by simpa using hc⟩
  channels k chans h := ⟨h.length_eq.symm, rfl, rfl, fun c hc => fun hr =>
    hc ((forall₂_getD h c (Channel.Calm.refl Channel.initial)).review hr).1⟩
  letter k i g _ := ⟨rfl, Works.modLetter_letters_length k i g, rfl, fun _ hc => hc⟩
  sealing k i := by
    obtain ⟨chans, letters, startup⟩ := k.applySealing_lengths i
    exact ⟨chans, letters, startup, fun c hc => by rwa [(k.applySealing_kept i c).2.1]⟩
  placeRun _ _ placed := by
    obtain ⟨-, -, -, -, hk'⟩ := Works.placeEntry_placed placed
    refine .modChan (Works.placeEntry_chans placed) ?_ ?_ rfl
    · rw [hk', (Works.afterPlan_letters _ _).1, Works.modLetter_letters_length]
    · rw [hk', (Works.afterPlan_letters _ _).2, Works.modLetter_startup]
  placeSpeech f _ _ _ placed := by
    obtain ⟨-, -, -, -, hk'⟩ := Works.placeEntry_placed placed
    refine .modChan (Works.placeEntry_chans placed) ?_ ?_ rfl
    · rw [hk', (Works.afterPlan_letters _ _).1, Works.modLetter_letters_length]
    · rw [hk', (Works.afterPlan_letters _ _).2, Works.modLetter_startup]
  grow mode _ _ _ _ _ _ := by
    rw [Works.giveBack_eq_given]
    exact ⟨rfl, by simp [Works.given], rfl, fun _ hc => hc⟩

/-- Releasing the held frames of a RECORDING channel keeps the shape. -/
theorem Works.releaseHeld_shape {k : Works} {c : Nat} (recording : (k.chan c).state = .recording) :
    k.Shape (k.releaseHeld c) := (Works.shape_spanMoves.span_releaseHeld fun _ => recording).moved

/-- It keeps the channel's letter too. -/
theorem Works.releaseHeld_letter {k : Works} {c : Nat} (recording : (k.chan c).state = .recording) :
    ((k.releaseHeld c).chan c).letter = (k.chan c).letter :=
  (Works.shape_spanMoves.span_releaseHeld fun _ => recording).letter

/-! ### RECORD and STOP (R77 to R84) -/

theorem exec_reqRecord (s : State) : exec .reqRecord s = s.carryOut 0x20#8 (onWorks recordAnswer) := rfl
theorem exec_reqStop (s : State) : exec .reqStop s = s.carryOut 0x21#8 (onWorks stopAnswer) := rfl

theorem recordBody_code (mode : RecMode) : recordBody [if mode = .insert then 1#8 else 2#8] = some mode := by
  cases mode <;> decide

theorem recordAnswer_of_checks {m : Message} {k : Works} {c i : Nat} {mode : RecMode}
    (checks : dictationChecks m k = .ok (c, i)) (body : recordBody m.body = some mode) :
    recordAnswer m k = k.record c i mode := by
  simp [recordAnswer, checks, body]

/-- A review ended at its play point (R87). -/
theorem Works.endReview_modChan {k : Works} {c p : Nat} (i : Nat) (play : (k.chan c).playPoint = some p)
    (g : Channel → Channel) :
    (k.endReview c i).modChan c g =
      { k with
        letters := k.letters.set i { k.letter i with cursor := p },
        chans := k.chans.set c (g { (k.chan c).outputCut with
          state := .ready, playPoint := none, prepPoint := none, stopPoint := none, outputBegun := false }) } := by
  unfold Works.endReview
  simp only [Works.modChan_modChan, play]
  rfl

theorem Works.endReview_eq {k : Works} {c p : Nat} (i : Nat) (play : (k.chan c).playPoint = some p) :
    k.endReview c i =
      { k with
        letters := k.letters.set i { k.letter i with cursor := p },
        chans := k.chans.set c { (k.chan c).outputCut with
          state := .ready, playPoint := none, prepPoint := none, stopPoint := none, outputBegun := false } } := by
  unfold Works.endReview
  simp only [play]
  rfl

/-- RECORD for a RECORDING channel, where the mode in force with none pending changes nothing (R79). -/
theorem Channel.changeMode_eq (ch : Channel) (mode : RecMode) :
    ch.changeMode mode =
      { ch with pendingMode := if ch.pendingMode = none ∧ ch.recMode = some mode then none else some mode } := by
  unfold Channel.changeMode
  split
  · rename_i h
    rw [← h.1]
  · rfl

theorem stopAnswer_of_checks {m : Message} {k : Works} {c i : Nat} (target : channelTargetSized m k 0 = .ok c)
    (opened : (k.chan c).state ≠ .closed) (letter : k.dictationLetter c = .ok i) :
    stopAnswer m k = (stopReply (k.stopChan c i) c, k.stopChan c i) := by
  simp [stopAnswer, target, opened, letter]

theorem stopReply_of_state {k : Works} {c : Nat} {st : ChanState} (h : (k.chan c).state = st) :
    stopReply k c = ⟨.ok, byte1 st.code⟩ := by rw [stopReply, h]

/-- Settles O27: past its checks each request is one branch on the channel's state. -/
theorem recordAndStopBoundTheSpan : Obligations.RecordAndStopBoundTheSpan := by
  constructor
  · intro s m rest c i mode front ⟨of_kind, target, scan_done⟩ body ch
    have mode_given : recordBody m.body = some mode := by rw [body, recordBody_code]
    have answer : ∀ {st : ChanState}, s.works.Dictates c i st → st ≠ .closed →
        exec .reqRecord s =
          .next (s.answered m rest (s.works.record c i mode).1 (s.works.record c i mode).2) := fun dictates opened => by
      rw [exec_reqRecord, State.carryOut_works front of_kind,
        recordAnswer_of_checks (dictationChecks_ok scan_done target dictates opened) mode_given]
    refine ⟨fun dictates => ?_, fun dictates p play => ?_, fun dictates => ?_, fun dictates => ?_⟩
    · rw [answer dictates (by decide), Works.record, dictates.1]
      exact next_answered_congr rfl rfl
    · intro ended exists_
      rw [answer dictates (by decide), Works.record, dictates.1]
      simp only [Works.endReview_modChan i play]
      exact next_answered_congr rfl rfl
    · have taken : s.works.record c i mode = (⟨.ok, []⟩, s.works.modChan c fun ch => ch.changeMode mode) := by
        rw [Works.record, dictates.1]
      rw [answer dictates (by decide), taken]
      simp only [Channel.changeMode_eq]
      exact next_answered_congr rfl rfl
    · rw [answer dictates (by decide), Works.record, dictates.1]
      exact next_answered_congr rfl rfl
  · intro s m rest c i front ⟨of_kind, target, scan_done⟩ no_body exists_ ch
    have checked : channelTargetSized m s.works 0 = .ok c := channelTargetSized_ok scan_done target (by simp [no_body])
    have answer : ∀ {st : ChanState}, s.works.Dictates c i st → st ≠ .closed →
        exec .reqStop s =
          .next (s.answered m rest (stopReply (s.works.stopChan c i) c) (s.works.stopChan c i)) :=
      fun dictates opened => by
        rw [exec_reqStop, State.carryOut_works front of_kind,
          stopAnswer_of_checks checked (by rw [dictates.1]; exact opened) (Works.dictationLetter_ok dictates opened)]
    refine ⟨fun dictates => ?_, fun dictates p play => ?_, fun dictates => ?_, fun dictates => ?_, fun closed => ?_⟩
    · intro released out state
      have shape := Works.releaseHeld_shape dictates.1
      have stopped : s.works.stopChan c i = s.works.stopRecording c := by simp [Works.stopChan, dictates.1]
      have after : ((s.works.stopRecording c).chan c).state = state := by
        rw [Works.stopRecording, Works.chan_modChan_self _ _ _ (by rw [shape.chans]; exact exists_)]
        simp only [Channel.endSpan, List.isEmpty_iff]
        rfl
      have code : byte1 state.code = [if out.capture = [] then 1#8 else 3#8] := by
        simp only [state]
        split <;> rfl
      rw [answer dictates (by decide), stopped, stopReply_of_state after, code]
      refine next_answered_congr rfl ?_
      simp only [Works.stopRecording, Works.modChan, Channel.endSpan, List.isEmpty_iff]
      rfl
    · intro ended
      have stopped : s.works.stopChan c i = ended.applySealing i := by
        simp only [Works.stopChan, dictates.1, Works.endReview_eq i play]
        rfl
      have after : ((ended.applySealing i).chan c).state = .ready := by
        rw [(ended.applySealing_kept i c).2.1]
        show ((s.works.chans.set c _).getD c _).state = _
        simp [List.getD_eq_getElem?_getD, exists_]
      rw [answer dictates (by decide), stopped, stopReply_of_state after]
      exact next_answered_congr rfl rfl
    · have stopped : s.works.stopChan c i = s.works := by simp [Works.stopChan, dictates.1]
      rw [answer dictates (by decide), stopped, stopReply_of_state dictates.1]
      exact next_answered_congr rfl rfl
    · have stopped : s.works.stopChan c i = s.works := by simp [Works.stopChan, dictates.1]
      rw [answer dictates (by decide), stopped, stopReply_of_state dictates.1]
      exact next_answered_congr rfl rfl
    · have left_alone : stopAnswer m s.works = (stopReply s.works c, s.works) := by
        simp only [stopAnswer, checked]
        rw [if_pos closed]
      rw [exec_reqStop, State.carryOut_works front of_kind, left_alone, stopReply_of_state closed]
      exact next_answered_congr rfl rfl

/-! ### WIND (R85, R86) -/

theorem exec_reqWind (s : State) : exec .reqWind s = s.carryOut 0x22#8 (onWorks windAnswer) := rfl
theorem exec_reqReview (s : State) : exec .reqReview s = s.carryOut 0x23#8 (onWorks reviewAnswer) := rfl

theorem Works.applySealing_not_attached {k : Works} {i : Nat}
    (h : (k.letter i).state ≠ .attached ∨ (k.letter i).channel = none) : k.applySealing i = k := by
  unfold Works.applySealing
  dsimp only
  split
  · rename_i c attached channel
    rcases h with h | h
    · exact absurd attached h
    · rw [channel] at h
      cases h
  · rfl

/-- Sealing leaves cursor and length of its letter, and its boundary within the length (R49). -/
theorem Works.letter_applySealing (k : Works) (i : Nat) :
    ((k.applySealing i).letter i).cursor = (k.letter i).cursor ∧
      ((k.applySealing i).letter i).length = (k.letter i).length ∧
      ((k.letter i).sealB ≤ (k.letter i).length →
        ((k.applySealing i).letter i).sealB ≤ ((k.applySealing i).letter i).length) := by
  by_cases attached : (k.letter i).state = .attached
  · cases channel : (k.letter i).channel with
    | none => rw [Works.applySealing_not_attached (.inr channel)]; exact ⟨rfl, rfl, id⟩
    | some c =>
      obtain ⟨nothing, something⟩ := Works.applySealing_attached attached channel
      by_cases moves : ((k.letter i).sealable (k.chan c).settings.window).1 = []
      · rw [nothing moves]
        exact ⟨rfl, rfl, id⟩
      · have ends := (sealSplit_sealed _ _ _).2 moves
        have exists_ : i < k.letters.length := Works.lt_of_letter_state (by simp [attached])
        have reads : (k.applySealing i).letter i =
            (k.letter i).sealEntries ((k.letter i).sealable (k.chan c).settings.window).1
              ((k.letter i).sealable (k.chan c).settings.window).2 := by
          rw [something moves]
          simp [Works.letter, List.getD_eq_getElem?_getD, exists_]
        rw [reads]
        refine ⟨rfl, rfl, fun _ => ?_⟩
        simp only [Letter.sealEntries]
        exact ends.trans ((min_le_left _ _).trans (Nat.sub_le _ _))
  · rw [Works.applySealing_not_attached (.inl attached)]
    exact ⟨rfl, rfl, id⟩

/-- What WIND aims at, the marks read where they stood when it was taken (R85, log 14). -/
theorem Letter.windAim_eq {l now : Letter} {t : WindTarget} {from_ : Nat} (starts : now.cursor = from_)
    (names : ∀ n, t = .toMark n → 0 ≤ n ∧ n < (l.marks.length : Int)) :
    now.windAim l.marks t =
      match (generalizing := false) t with
      | .relative n => (from_ : Int) + n
      | .absolute n => n
      | .toStart => (now.sealB : Int)
      | .toEnd => (now.length : Int)
      | .toMark n => (((l.marks.map Mark.pos).getD n.toNat 0 : Nat) : Int) := by
  cases t with
  | relative n => simp only [Letter.windAim, starts]
  | toMark n =>
    obtain ⟨nonneg, inside⟩ := names n rfl
    have index : n.toNat < l.marks.length := by omega
    simp [Letter.windAim, index]
  | _ => rfl

theorem windFits_of_names {l : Letter} {t : WindTarget}
    (names : ∀ n, t = .toMark n → 0 ≤ n ∧ n < (l.marks.length : Int)) : l.windFits t = true := by
  cases t with
  | toMark n =>
    obtain ⟨nonneg, inside⟩ := names n rfl
    simp [Letter.windFits, nonneg, inside]
  | _ => rfl

theorem windAnswer_of_checks {m : Message} {k : Works} {c i : Nat} {t : WindTarget}
    (checks : dictationChecks m k = .ok (c, i)) (body : windBody m.body = some t)
    (fits : (k.letter i).windFits t = true) : windAnswer m k = k.wind c i t := by
  simp [windAnswer, checks, body, fits]

/-! ### REVIEW (R72, R73, R87) -/

theorem clampNat_eq {lo hi : Nat} (v : Nat) (h : lo ≤ hi) :
    clampNat lo hi v = (max lo (min hi v), !decide (lo ≤ v ∧ v ≤ hi)) := by
  unfold clampNat
  split
  · rename_i low
    simp only [Prod.mk.injEq, Bool.not_eq_eq_eq_not, Bool.not_true, decide_eq_false_iff_not, eq_comm (a := true)]
    exact ⟨by omega, by omega⟩
  · split
    · simp only [Prod.mk.injEq, Bool.not_eq_eq_eq_not, Bool.not_true, decide_eq_false_iff_not, eq_comm (a := true)]
      exact ⟨by omega, by omega⟩
    · simp only [Prod.mk.injEq, Bool.not_eq_eq_eq_not, Bool.not_false, decide_eq_true_eq, eq_comm (a := false)]
      exact ⟨by omega, by omega⟩

theorem okOrClamped_not_decide (p : Prop) [Decidable p] :
    okOrClamped (!decide p) = if p then .ok else .clamped := by
  by_cases h : p <;> simp [okOrClamped, h]

/-- The stop point of a review, and the status that tells whether it was limited (R72). -/
theorem Letter.stopPoint_eq {l : Letter} (o : StopOption) (h : l.cursor ≤ l.length) :
    (l.stopPoint o).1 =
        (match o with
        | .atEnd => l.length
        | .atPosition p => max l.cursor (min l.length p)
        | .nextMark => ((l.marks.filter fun k => decide (l.cursor < k.pos)).map Mark.pos).headD l.length) ∧
      okOrClamped (l.stopPoint o).2 =
        (match o with
        | .atPosition p => if l.cursor ≤ p ∧ p ≤ l.length then .ok else .clamped
        | _ => .ok) := by
  cases o with
  | atEnd => exact ⟨rfl, rfl⟩
  | atPosition p =>
    simp only [Letter.stopPoint, clampNat_eq p h]
    exact ⟨trivial, okOrClamped_not_decide _⟩
  | nextMark =>
    refine ⟨?_, rfl⟩
    simp only [Letter.stopPoint]
    rw [List.headD_eq_head?_getD, List.head?_map, List.head?_filter]

theorem reviewAnswer_of_checks {m : Message} {k : Works} {c i : Nat} {o : StopOption}
    (checks : dictationChecks m k = .ok (c, i)) (body : reviewBody m.body = some o) (ready : (k.chan c).state = .ready) :
    reviewAnswer m k =
      (⟨okOrClamped ((k.letter i).stopPoint o).2, byte3 ((k.letter i).stopPoint o).1⟩,
        k.beginReview c i ((k.letter i).stopPoint o).1) := by
  simp [reviewAnswer, checks, body, Works.review, ready]

/-- Settles O28: WIND is `Works.windFrom`, after the end of a review where there is one, and REVIEW is
`Works.beginReview` at the stop point of R72. -/
theorem windAndReviewMoveInTheLetter : Obligations.WindAndReviewMoveInTheLetter := by
  constructor
  · intro s m rest c i t front ⟨of_kind, target, scan_done⟩ body l ch names ordered exists_ aim clamp status
    have answer : ∀ {st : ChanState}, s.works.Dictates c i st → st ≠ .closed →
        exec .reqWind s = .next (s.answered m rest (s.works.wind c i t).1 (s.works.wind c i t).2) :=
      fun dictates opened => by
        rw [exec_reqWind, State.carryOut_works front of_kind,
          windAnswer_of_checks (dictationChecks_ok scan_done target dictates opened) body (windFits_of_names names)]
    refine ⟨fun dictates => ?_, fun dictates q play => ?_⟩
    · intro p moved
      have wind : s.works.wind c i t = s.works.windFrom i l.marks t := by simp only [Works.wind, dictates.1]; rfl
      have aimed : l.windAim l.marks t = aim l l.cursor := Letter.windAim_eq rfl names
      rw [answer dictates (by decide), wind, Works.windFrom_eq _ _ ordered]
      simp only [show (s.works.letter i).windAim l.marks t = aim l l.cursor from aimed]
      exact next_answered_congr rfl rfl
    · intro reviewed k now p moved
      have wind : s.works.wind c i t = k.windFrom i l.marks t := by
        simp only [Works.wind, dictates.1, Works.endReview_eq i play]
        rfl
      have reads : reviewed.letter i = { l with cursor := q } := by
        show (s.works.letters.set i _).getD i _ = _
        simp [List.getD_eq_getElem?_getD, exists_]
      obtain ⟨cursor, -, within⟩ := reviewed.letter_applySealing i
      have starts : now.cursor = q := by rw [cursor, reads]
      have aimed : now.windAim l.marks t = aim now q := Letter.windAim_eq starts names
      rw [answer dictates (by decide), wind, Works.windFrom_eq _ _ (within (by rw [reads]; exact ordered))]
      simp only [show ((reviewed.applySealing i).letter i).windAim l.marks t = aim now q from aimed,
        show ((reviewed.applySealing i).letter i).cursor = q from starts]
      exact next_answered_congr rfl rfl
  · intro s m rest c i o front ⟨of_kind, target, scan_done⟩ body dictates l ch ordered stop status
    obtain ⟨stop_eq, status_eq⟩ : (l.stopPoint o).1 = stop ∧ okOrClamped (l.stopPoint o).2 = status :=
      Letter.stopPoint_eq o ordered
    have answer : exec .reqReview s =
        .next (s.answered m rest ⟨status, byte3 stop⟩ (s.works.beginReview c i stop)) := by
      rw [exec_reqReview, State.carryOut_works front of_kind,
        reviewAnswer_of_checks (dictationChecks_ok scan_done target dictates (by decide)) body dictates.1]
      rw [show (s.works.letter i).stopPoint o = l.stopPoint o from rfl, status_eq, stop_eq]
    refine ⟨fun at_cursor => ?_, fun beyond => ?_⟩
    · rw [answer, Works.beginReview, if_pos at_cursor, Works.raise_eq, if_pos scan_done]
    · intro kept entered
      rw [answer, Works.beginReview, if_neg beyond]
      exact next_answered_congr rfl rfl

end Sys2Proof.Machine

/-! PROOFS. The mark requests (04_marks_and_stop_points.md): MARK, UNMARK, MARKLIST. -/

namespace Sys2Proof.Machine

theorem exec_reqMark (s : State) : exec .reqMark s = s.carryOut 0x24#8 (onWorks markAnswer) := rfl
theorem exec_reqUnmark (s : State) : exec .reqUnmark s = s.carryOut 0x25#8 (onWorks unmarkAnswer) := rfl
theorem exec_reqMarklist (s : State) : exec .reqMarklist s = s.carryOut 0x26#8 (onWorks marklistAnswer) := rfl

/-! ### The mark table -/

theorem Mark.isAt_eq (kind : MarkKind) (p : Nat) :
    (fun m : Mark => m.isAt kind p) = fun m => decide (m.kind = kind ∧ m.pos = p) :=
  funext fun _ => (Bool.decide_and _ _).symm

theorem Letter.hasMark_eq (l : Letter) (kind : MarkKind) (p : Nat) :
    l.hasMark kind p = l.marks.any fun m => decide (m.kind = kind ∧ m.pos = p) := by
  rw [Letter.hasMark, Mark.isAt_eq]

theorem Letter.captureMark_eq (l : Letter) (kind : MarkKind) (label : BitVec 16) (p : Nat) :
    l.captureMark kind label p =
      if l.marks.any fun m => decide (m.kind = kind ∧ m.pos = p) then
        l.marks.map fun m => if m.kind = kind ∧ m.pos = p then { m with label := label } else m
      else insertMark ⟨kind, label, p⟩ l.marks := by
  unfold Letter.captureMark
  rw [Letter.hasMark_eq]
  simp only [Mark.isAt, Bool.and_eq_true, decide_eq_true_eq]

theorem mem_insertMark (m : Mark) (ms : List Mark) : m ∈ insertMark m ms := by
  induction ms with
  | nil => simp [insertMark]
  | cons f rest ih =>
    unfold insertMark
    split
    · exact List.mem_cons_of_mem _ ih
    · exact List.mem_cons_self

/-- After a capture the table holds the mark. -/
theorem Letter.exists_captureMark (l : Letter) (kind : MarkKind) (label : BitVec 16) (p : Nat) :
    ∃ m ∈ l.captureMark kind label p, m.isAt kind p = true := by
  unfold Letter.captureMark
  split
  · rename_i there
    obtain ⟨m, hm, at_p⟩ := List.any_eq_true.1 there
    exact ⟨{ m with label := label }, List.mem_map.2 ⟨m, hm, if_pos at_p⟩, at_p⟩
  · exact ⟨⟨kind, label, p⟩, mem_insertMark _ _, by simp [Mark.isAt]⟩

/-- So its index is where it stands. -/
theorem markIndex_captureMark (l : Letter) (kind : MarkKind) (label : BitVec 16) (p : Nat) :
    markIndex kind p (l.captureMark kind label p) =
      (l.captureMark kind label p).findIdx fun m => decide (m.kind = kind ∧ m.pos = p) := by
  have found : (l.captureMark kind label p).findIdx (fun m => m.isAt kind p) < (l.captureMark kind label p).length :=
    List.findIdx_lt_length.2 (l.exists_captureMark kind label p)
  rw [markIndex, ← Mark.isAt_eq, List.findIdx?_eq_some_of_exists (l.exists_captureMark kind label p)]
  rfl

/-! ### A capture -/

theorem markAnswer_of_checks {m : Message} {k : Works} {c i : Nat} {kind : MarkKind} {label : BitVec 16}
    (checks : dictationChecks m k = .ok (c, i)) (body : markBody m.body = some (kind, label)) :
    markAnswer m k = k.mark c i kind label := by
  simp [markAnswer, checks, body]

/-- Where a channel of a state captures: a RECORDING one is not REVIEWING after the release (R31, R63). -/
theorem Works.capturePoint_settled {k : Works} {c i : Nat} {st : ChanState} (state : (k.chan c).state = st) :
    (k.settled c).capturePoint c i =
      if st = .reviewing then ((k.settled c).chan c).playPoint.getD ((k.settled c).letter i).cursor
      else ((k.settled c).letter i).cursor := by
  by_cases reviewing : st = .reviewing
  · have same : k.settled c = k := by simp [Works.settled, state, reviewing]
    simp only [Works.capturePoint, same, state, reviewing, if_true]
  · have stays : ((k.settled c).chan c).state ≠ .reviewing := by
      unfold Works.settled
      split
      · rename_i recording
        exact (Works.releaseHeld_shape recording).review c (by simp [recording])
      · rwa [state]
    rw [if_neg reviewing]
    unfold Works.capturePoint
    split
    · rename_i h
      exact absurd h stays
    · rfl

theorem Channel.endGrowth_eq (ch : Channel) :
    ch.endGrowth =
      { ch with det := { ch.det with growing := if ch.state = .recording then none else ch.det.growing } } := by
  unfold Channel.endGrowth
  split
  · rename_i recording
    simp only [recording, if_true]
  · rename_i other
    rw [if_neg other]

theorem Works.settled_eq {k : Works} {c : Nat} {st : ChanState} (state : (k.chan c).state = st) :
    k.settled c = if st = .recording then k.releaseHeld c else k := by
  unfold Works.settled
  rw [state]
  cases st <;> rfl

/-- The works once a mark has joined its letter's table and the growing run has ended (R64, steps 1 and 2). -/
theorem Works.marked_eq (k : Works) (c i : Nat) (kind : MarkKind) (label : BitVec 16) (p : Nat) :
    (k.modLetter i fun l => l.withMark kind label p).modChan c Channel.endGrowth =
      { k with
        letters := k.letters.set i { k.letter i with marks := (k.letter i).captureMark kind label p },
        chans := k.chans.set c
          { k.chan c with
            det := { (k.chan c).det with
              growing := if (k.chan c).state = .recording then none else (k.chan c).det.growing } } } := by
  unfold Works.modChan
  rw [Channel.endGrowth_eq]
  rfl

theorem Works.capture_no_split {k : Works} {i p : Nat} (c : Nat) (kind : MarkKind) (label : BitVec 16)
    (h : (k.letter i).splitRun p k.nextEntry = none) :
    k.capture c i kind label p = (k.modLetter i fun l => l.withMark kind label p).modChan c Channel.endGrowth := by
  simp only [Works.capture, h]

theorem Works.capture_split {k : Works} {i p : Nat} {edit : List Entry} (c : Nat) (kind : MarkKind) (label : BitVec 16)
    (h : (k.letter i).splitRun p k.nextEntry = some edit) :
    k.capture c i kind label p =
      (((k.modLetter i fun l => l.withMark kind label p).modChan c Channel.endGrowth).splitAt i edit).applySealing i := by
  simp only [Works.capture, h]

/-- The split's list takes the place of the marked letter's. -/
theorem Works.splitAt_marked {k : Works} {i : Nat} {l : Letter} {chans : List Channel} (edit : List Entry) :
    ({ k with letters := k.letters.set i l, chans := chans } : Works).splitAt i edit =
      { k with
        letters := k.letters.set i { l with edit := edit }, chans := chans, freeEntries := k.freeEntries - 1,
        nextEntry := k.nextEntry + 1 }.entriesTaken := by
  unfold Works.splitAt Works.modLetter
  by_cases exists_ : i < k.letters.length
  · simp [Works.letter, List.getD_eq_getElem?_getD, exists_, List.set_set]
  · have none_there : ∀ x : Letter, k.letters.set i x = k.letters := fun x => List.set_eq_of_length_le (by omega)
    simp only [none_there]

theorem unmarkIndex_of_inside {n : Byte} {marks : List Mark} (h : n.toNat < marks.length) :
    unmarkIndex [n] marks = some n.toNat := if_pos h
theorem unmarkIndex_of_beyond {n : Byte} {marks : List Mark} (h : marks.length ≤ n.toNat) :
    unmarkIndex [n] marks = none := if_neg (by omega)

/-- Settles O29: `Works.mark` at the settled works, whose capture point the release of held frames does not change. -/
theorem markRequestsKeepTheTable : Obligations.MarkRequestsKeepTheTable := by
  constructor
  · intro s m rest c i kind label st front ⟨of_kind, target, scan_done⟩ body dictates opened
      k l ch p there table index growing chans
    have settled : s.works.settled c = k := Works.settled_eq dictates.1
    have point : k.capturePoint c i = p := by
      have := Works.capturePoint_settled (i := i) dictates.1
      rwa [settled] at this
    have placed : l.captureMark kind label p = table := Letter.captureMark_eq l kind label p
    have indexed : markIndex kind p table = index := by
      rw [← placed, markIndex_captureMark, placed]
    have full : l.marksFull kind p = (decide (16 ≤ l.marks.length) && !there) := by
      rw [Letter.marksFull, Letter.hasMark_eq]
      rfl
    have answer : exec .reqMark s =
        .next (s.answered m rest (s.works.mark c i kind label).1 (s.works.mark c i kind label).2) := by
      rw [exec_reqMark, State.carryOut_works front of_kind,
        markAnswer_of_checks (dictationChecks_ok scan_done target dictates opened) body]
    have marked : s.works.mark c i kind label =
        if l.marksFull kind p then (refuse .full, s.works.modLetter i fun l => { l with overflow := true })
        else if (l.splitRun p k.nextEntry).isSome && decide (k.freeEntries = 0) then (refuse .poolEmpty, s.works)
        else (⟨.ok, byte1 index ++ byte3 p⟩, k.capture c i kind label p) := by
      simp only [Works.mark, settled, point]
      rw [show (k.letter i).captureMark kind label p = table from placed, indexed]
    have not_full (room : l.marks.length < 16 ∨ there = true) : l.marksFull kind p = false := by
      rw [full]
      rcases room with h | h <;> simp [h]
    refine ⟨fun many absent => ?_, fun room unsplit => ?_, fun edit room split => ⟨fun none_left => ?_, fun some_left => ?_⟩⟩
    · rw [answer, marked, full]
      simp only [many, absent, decide_true, Bool.not_false, Bool.and_self, if_true]
      exact next_answered_congr rfl rfl
    · have captured : k.capture c i kind label p =
          { k with letters := k.letters.set i { l with marks := table }, chans := chans } := by
        rw [Works.capture_no_split c kind label unsplit, Works.marked_eq,
          show (k.letter i).captureMark kind label p = table from placed]
      rw [answer, marked, not_full room, unsplit, captured]
      exact next_answered_congr rfl rfl
    · rw [answer, marked, not_full room, split, none_left]
      exact next_answered_congr rfl rfl
    · have captured : k.capture c i kind label p =
          ({ k with
              letters := k.letters.set i { l with marks := table, edit := edit }, chans := chans,
              freeEntries := k.freeEntries - 1, nextEntry := k.nextEntry + 1 } : Works).entriesTaken.applySealing i := by
        rw [Works.capture_split c kind label split, Works.marked_eq,
          show (k.letter i).captureMark kind label p = table from placed, Works.splitAt_marked]
      have some_free : decide (k.freeEntries = 0) = false := decide_eq_false (by omega)
      rw [answer, marked, not_full room, some_free, captured, Bool.and_false]
      exact next_answered_congr rfl rfl
  · intro s m rest c i st front target scan_done dictates opened l
    have checks := dictationChecks_ok scan_done target dictates opened
    refine ⟨fun n of_kind body => ⟨fun inside => ?_, fun beyond => ?_⟩, fun of_kind no_body => ?_⟩
    · have answer : unmarkAnswer m s.works = (⟨.ok, []⟩, s.works.modLetter i fun l => l.withoutMark n.toNat) := by
        simp only [unmarkAnswer, checks, body, unmarkIndex_of_inside (marks := (s.works.letter i).marks) inside]
      rw [exec_reqUnmark, State.carryOut_works front of_kind, answer]
      simp only [Works.modLetter, Letter.withoutMark, List.eraseIdx_eq_take_drop_succ]
      exact next_answered_congr rfl rfl
    · have answer : unmarkAnswer m s.works = (refuse .badField, s.works) := by
        simp only [unmarkAnswer, checks, body, unmarkIndex_of_beyond (marks := (s.works.letter i).marks) beyond]
      rw [exec_reqUnmark, State.carryOut_works front of_kind, answer]
      exact next_answered_congr rfl rfl
    · have answer : marklistAnswer m s.works = (⟨.ok, markListBody l⟩, s.works) := by
        simp only [marklistAnswer, channelTargetSized_ok scan_done target (show m.body.length = 0 by simp [no_body]),
          Works.dictationLetter_ok dictates opened]
        rfl
      rw [exec_reqMarklist, State.carryOut_works front of_kind, answer]
      exact next_answered_congr rfl rfl

end Sys2Proof.Machine

/-! PROOFS. The transcription requests (09_transcription_playback.md): LOAD, UNLOAD, HALT, PLAY, STEP. -/

namespace Sys2Proof.Machine

theorem exec_reqLoad (s : State) : exec .reqLoad s = s.carryOut 0x31#8 (onWorks loadAnswer) := rfl
theorem exec_reqUnload (s : State) : exec .reqUnload s = s.carryOut 0x32#8 (onWorks unloadAnswer) := rfl
theorem exec_reqPlay (s : State) : exec .reqPlay s = s.carryOut 0x34#8 (onWorks playAnswer) := rfl
theorem exec_reqHalt (s : State) : exec .reqHalt s = s.carryOut 0x35#8 (onWorks haltAnswer) := rfl
theorem exec_reqStep (s : State) : exec .reqStep s = s.carryOut 0x36#8 (onWorks stepAnswer) := rfl

theorem ne_dictation_of_transcription {kind : ChanKind} (h : kind = .transcription) : kind ≠ .dictation := by
  simp [h]

theorem playBytes_eq (p : Option Nat) : playBytes p = (p.map byte3).getD [] := by cases p <;> rfl

/-! ### LOAD, UNLOAD, HALT -/

/-- HALT past its checks (R158). -/
theorem Works.haltChan_stopped {k : Works} {c : Nat} (h : (k.chan c).state = .stopped ∨ (k.chan c).state = .ended) :
    k.haltChan c = (⟨.ok, []⟩, k) := by
  rcases h with h | h <;> simp only [Works.haltChan, h]

theorem Works.haltChan_playing {k : Works} {c : Nat} (h : (k.chan c).state = .playing ∨ (k.chan c).state = .starved) :
    k.haltChan c = (⟨.ok, playBytes (k.chan c).playPoint⟩, k.modChan c Channel.halt) := by
  rcases h with h | h <;> simp only [Works.haltChan, h]

/-- Settles O31: one branch of each owner on the channel's state and kind. -/
theorem loadUnloadAndHalt : Obligations.LoadUnloadAndHalt := by
  intro s m rest c front target scan_done ch
  have named : channelTarget m s.works = .ok c := channelTarget_ok scan_done target
  have named_empty (no_body : m.body = []) : channelTargetSized m s.works 0 = .ok c :=
    channelTargetSized_ok scan_done target (by simp [no_body])
  refine ⟨fun of_kind body => ⟨fun opened => ?_, fun closed => ?_⟩,
    fun of_kind no_body => ⟨fun closed => ?_, fun opened kind => ?_⟩,
    fun of_kind no_body => ⟨fun closed => ?_, fun kind state => ?_, fun kind state => ?_⟩⟩
  · have answer : loadAnswer m s.works = (refuse .busy, s.works) := by
      simp only [loadAnswer, named, body, loadFits]
      split
      · rfl
      · exact if_pos (decide_eq_true trivial)
    rw [exec_reqLoad, State.carryOut_works front of_kind, answer]
    exact next_answered_congr rfl rfl
  · have answer : loadAnswer m s.works = (⟨.ok, []⟩, s.works.modChan c Channel.load) := by
      simp [loadAnswer, named, body, loadFits, show (s.works.chan c).state = .closed from closed]
    rw [exec_reqLoad, State.carryOut_works front of_kind, answer]
    exact next_answered_congr rfl rfl
  · have answer : unloadAnswer m s.works = (⟨.ok, []⟩, s.works) := by
      simp only [unloadAnswer, named_empty no_body]
      rw [if_pos closed]
    rw [exec_reqUnload, State.carryOut_works front of_kind, answer]
  · have answer : unloadAnswer m s.works = (⟨.ok, []⟩, s.works.unloadChan c) := by
      simp only [unloadAnswer, named_empty no_body]
      rw [if_neg opened, if_neg (ne_dictation_of_transcription kind)]
    rw [exec_reqUnload, State.carryOut_works front of_kind, answer]
    simp only [Works.unloadChan, Works.giveBack_eq_given]
    exact next_answered_congr rfl rfl
  · have answer : haltAnswer m s.works = (⟨.ok, []⟩, s.works) := by
      simp only [haltAnswer, named_empty no_body]
      rw [if_pos closed]
    rw [exec_reqHalt, State.carryOut_works front of_kind, answer]
  · have opened : (s.works.chan c).state ≠ .closed := fun closed => by
      rcases state with h | h <;> exact nomatch closed.symm.trans h
    have answer : haltAnswer m s.works = s.works.haltChan c := by
      simp only [haltAnswer, named_empty no_body]
      rw [if_neg opened, if_neg (ne_dictation_of_transcription kind)]
    rw [exec_reqHalt, State.carryOut_works front of_kind, answer, Works.haltChan_stopped state]
  · have opened : (s.works.chan c).state ≠ .closed := fun closed => by
      rcases state with h | h <;> exact nomatch closed.symm.trans h
    have answer : haltAnswer m s.works = s.works.haltChan c := by
      simp only [haltAnswer, named_empty no_body]
      rw [if_neg opened, if_neg (ne_dictation_of_transcription kind)]
    rw [exec_reqHalt, State.carryOut_works front of_kind, answer, Works.haltChan_playing state, playBytes_eq]
    exact next_answered_congr rfl rfl

/-! ### PLAY (R157) -/

/-- The prepare point asks for the records' places and slots only. -/
theorem feedPrepare_map {f : FeedRec → FeedRec} (slots : ∀ r, (f r).isSpeech = r.isSpeech) (places : ∀ r, (f r).pos = r.pos)
    (queue : List FeedRec) (p expected : Nat) : feedPrepare (queue.map f) p expected = feedPrepare queue p expected := by
  have asked : ((fun r : FeedRec => r.isSpeech && decide (p ≤ r.pos)) ∘ f) = fun r => r.isSpeech && decide (p ≤ r.pos) :=
    funext fun r => by rw [Function.comp, slots, places]
  simp only [feedPrepare, List.find?_map, asked]
  cases queue.find? fun r => r.isSpeech && decide (p ≤ r.pos) with
  | none => rfl
  | some r => exact places r

/-- A record of a queue whose marks from `low` below `high` are armed again. -/
def FeedRec.rearmed (low high : Nat) (r : FeedRec) : FeedRec :=
  match r.body with
  | .mark kind label _ => if low ≤ r.pos ∧ r.pos < high then { r with body := .mark kind label true } else r
  | _ => r

theorem rearm_eq (low high : Nat) (q : List FeedRec) : rearm low high q = q.map (FeedRec.rearmed low high) := rfl

theorem FeedRec.rearmed_kept (low high : Nat) (r : FeedRec) :
    (r.rearmed low high).isSpeech = r.isSpeech ∧ (r.rearmed low high).pos = r.pos := by
  unfold FeedRec.rearmed
  split
  · rename_i body
    split
    · simp [FeedRec.isSpeech, FeedRec.slot, body]
    · exact ⟨rfl, rfl⟩
  · exact ⟨rfl, rfl⟩

theorem feedPrepare_rearm (low high p expected : Nat) (queue : List FeedRec) :
    feedPrepare (rearm low high queue) p expected = feedPrepare queue p expected :=
  feedPrepare_map (fun r => (r.rearmed_kept low high).1) (fun r => (r.rearmed_kept low high).2) queue p expected

theorem playBody_code (back : Bool) : playBody [if back then 1#8 else 0#8] = some back := by cases back <;> decide

theorem Works.transcriptionRefusal_of {k : Works} {c : Nat} (opened : (k.chan c).state ≠ .closed)
    (kind : (k.chan c).kind = .transcription) : k.transcriptionRefusal c = none := by
  rw [Works.transcriptionRefusal, if_neg opened, if_neg (ne_dictation_of_transcription kind)]

theorem Works.play_busy {k : Works} {c : Nat} (on : Bool)
    (h : (k.chan c).state = .playing ∨ (k.chan c).state = .starved) : k.play c on = (refuse .busy, k) := by
  rcases h with h | h <;> simp only [Works.play, h]

theorem Works.play_stopped {k : Works} {c : Nat} (on : Bool)
    (h : (k.chan c).state = .stopped ∨ (k.chan c).state = .ended) :
    k.play c on =
      (⟨.ok, playBytes ((k.chan c).backspaced on)⟩, (k.modChan c fun ch => ch.play on).grantIfIdle) := by
  rcases h with h | h <;> simp only [Works.play, h]

/-- Before the first FEED there is no play point to move (R157). -/
theorem Channel.play_unfed {ch : Channel} (on : Bool) (absent : ch.playPoint = none) :
    ch.backspaced on = none ∧ ch.play on = { ch with state := .playing, prepPoint := none, outputBegun := false } := by
  have back : ch.backspaced on = none := by simp only [Channel.backspaced, absent]
  refine ⟨back, ?_⟩
  simp only [Channel.play, back, absent, Channel.prepareFeed]

theorem Channel.play_fed {ch : Channel} {p x r : Nat} (on : Bool) (play : ch.playPoint = some p)
    (expected : ch.expected = some x) (retained : ch.retainedStart = some r) :
    let q := if on then p - min ch.settings.backspace (p - r) else p
    ch.backspaced on = some q ∧
      ch.play on =
        { ch with
          state := .playing, outputBegun := false, playPoint := some q, feed := rearm q p ch.feed,
          prepPoint := some (feedPrepare ch.feed q x) } := by
  intro q
  have back : ch.backspaced on = some q := by
    simp only [Channel.backspaced, play, retained]
    rfl
  refine ⟨back, ?_⟩
  simp only [Channel.play, back, Channel.movePlay, play, Channel.prepareFeed, expected, feedPrepare_rearm]

theorem playAnswer_of_checks {m : Message} {k : Works} {c : Nat} {back : Bool} (named : channelTarget m k = .ok c)
    (open_ : k.transcriptionRefusal c = none) (body : m.body = [if back then 1#8 else 0#8]) :
    playAnswer m k = k.play c back := by
  simp only [playAnswer, named, open_, body, playBody_code]

theorem stepAnswer_of_checks {m : Message} {k : Works} {c : Nat} (named : channelTargetSized m k 4 = .ok c)
    (open_ : k.transcriptionRefusal c = none) : stepAnswer m k = k.stepChan c (leSigned m.body) := by
  simp only [stepAnswer, named, open_]

/-! ### STEP (R159) -/

theorem Works.stepChan_busy {k : Works} {c : Nat} (n : Int)
    (h : (k.chan c).state = .playing ∨ (k.chan c).state = .starved) : k.stepChan c n = (refuse .busy, k) := by
  rcases h with h | h <;> simp only [Works.stepChan, h]

theorem Works.stepChan_unfed {k : Works} {c : Nat} (n : Int)
    (h : (k.chan c).state = .stopped ∨ (k.chan c).state = .ended) (absent : (k.chan c).playPoint = none) :
    k.stepChan c n = (⟨if n = 0 then .ok else .clamped, []⟩, k) := by
  have status : okOrClamped (decide (n ≠ 0)) = if n = 0 then .ok else .clamped := by
    by_cases zero : n = 0 <;> simp [okOrClamped, zero]
  rcases h with h | h <;> simp only [Works.stepChan, h, absent, status]

theorem Works.stepChan_fed {k : Works} {c p x r : Nat} (n : Int)
    (h : (k.chan c).state = .stopped ∨ (k.chan c).state = .ended) (play : (k.chan c).playPoint = some p)
    (expected : (k.chan c).expected = some x) (retained : (k.chan c).retainedStart = some r) :
    k.stepChan c n = (⟨okOrClamped (stepTarget p r x n).2, byte3 (stepTarget p r x n).1⟩,
      k.stepTo c (stepTarget p r x n).1) := by
  rcases h with h | h <;> simp only [Works.stepChan, h, play, expected, retained]

/-- Freeing the tail leaves all of a channel but its queue, and the start-up state (R156). -/
theorem Works.freeTail_kept (k : Works) (c : Nat) :
    (k.freeTail c).startup = k.startup ∧ ∃ feed, (k.freeTail c).chan c = { k.chan c with feed := feed } := by
  unfold Works.freeTail
  dsimp only
  split
  · exact ⟨rfl, _, rfl⟩
  · rename_i p _
    simp only [Works.giveBack_eq_given, Works.chan_given]
    refine ⟨rfl, ?_⟩
    rcases k.chan_modChan_cases c fun ch =>
        { ch with feed := ch.feed.dropWhile fun r => r.behind (p - (k.chan c).settings.backspace) } with e | e
    · exact ⟨_, e⟩
    · exact ⟨_, e⟩

/-- The comparison with the feed low mark, in a part whose scan is DONE (R161). -/
theorem Works.compareFeedLow_eq {k : Works} {c b n : Nat} (scan_done : k.startup = .done)
    (unplayed : (k.chan c).unplayed = some n) :
    k.compareFeedLow c (some b) =
      { k with
        events :=
          if (k.chan c).endFed = false ∧ (k.chan c).settings.feedLow ≤ b ∧ n < (k.chan c).settings.feedLow then
            putEvent ⟨.feedLow, c, 0, 0⟩ k.events
          else k.events } := by
  simp only [Works.compareFeedLow, unplayed, Works.raiseCount, Works.raiseWith, scan_done, if_true, Bool.and_eq_true,
    Bool.not_eq_true', decide_eq_true_eq, and_assoc]
  split
  · rfl
  · rw [← scan_done]

/-- A channel after a STEP to `q`, before the tail is freed (R159). -/
theorem Works.stepTo_eq {k : Works} {c p q x : Nat} (scan_done : k.startup = .done) (exists_ : c < k.chans.length)
    (state : (k.chan c).state = .stopped ∨ (k.chan c).state = .ended) (play : (k.chan c).playPoint = some p)
    (expected : (k.chan c).expected = some x) :
    let ch := k.chan c
    let moved : Works :=
      { k with
        chans := k.chans.set c
          { ch with generation := ch.generation + 1, playPoint := some q, feed := rearm q p ch.feed } }
    let freed := moved.freeTail c
    k.stepTo c q =
      { freed with
        chans := freed.chans.set c { freed.chan c with state := .stopped },
        events :=
          if ch.endFed = false ∧ ch.settings.feedLow ≤ x - p ∧ x - q < ch.settings.feedLow then
            putEvent ⟨.feedLow, c, 0, 0⟩ freed.events
          else freed.events } := by
  intro ch moved freed
  have moves : (k.modChan c fun ch => { ch with generation := ch.generation + 1 }.movePlay q) = moved := by
    simp only [Works.modChan, Channel.movePlay, play]
    rfl
  have before : (k.chan c).unplayed = some (x - p) := by simp only [Channel.unplayed, expected, play]
  have reads : moved.chan c =
      { ch with generation := ch.generation + 1, playPoint := some q, feed := rearm q p ch.feed } := by
    show (k.chans.set c _).getD c _ = _
    simp [List.getD_eq_getElem?_getD, exists_]
  obtain ⟨freed_startup, feed, left⟩ : freed.startup = moved.startup ∧ ∃ feed, freed.chan c = { moved.chan c with feed := feed } :=
    moved.freeTail_kept c
  have freed_done : freed.startup = .done := freed_startup.trans scan_done
  have unplayed : (freed.chan c).unplayed = some (x - q) := by
    rw [left, reads]
    simp only [Channel.unplayed, show ch.expected = some x from expected]
  have leaves : (freed.chan c).leaveEnded = { freed.chan c with state := .stopped } := by
    have same : (freed.chan c).state = ch.state := by rw [left, reads]
    unfold Channel.leaveEnded
    split
    · rfl
    · rename_i not_ended
      have stopped : (freed.chan c).state = .stopped :=
        same.trans (state.resolve_right fun h => not_ended (same.trans h))
      rw [← stopped]
  rw [Works.stepTo, before, moves, Works.compareFeedLow_eq freed_done unplayed]
  show ({ freed with chans := freed.chans.set c (freed.chan c).leaveEnded, events := _ } : Works) = _
  have fed : (freed.chan c).endFed = ch.endFed := by rw [left, reads]
  have settings : (freed.chan c).settings = ch.settings := by rw [left, reads]
  rw [leaves]
  simp only [fed, settings]

/-- Settles O33: PLAY is `Channel.play` and a grant, STEP is `Works.stepTo` at the limited target. -/
theorem playAndStepFromThePlayPoint : Obligations.PlayAndStepFromThePlayPoint := by
  constructor
  · intro s m rest c back front ⟨of_kind, target, scan_done⟩ body kind exists_ ch
    have answer (opened : ch.state ≠ .closed) : exec .reqPlay s =
        .next (s.answered m rest (s.works.play c back).1 (s.works.play c back).2) := by
      rw [exec_reqPlay, State.carryOut_works front of_kind,
        playAnswer_of_checks (channelTarget_ok scan_done target) (Works.transcriptionRefusal_of opened kind) body]
    refine ⟨fun state => ?_, fun state absent => ?_, fun p x r state play expected retained => ?_⟩
    · rw [answer (by rcases state with h | h <;> simp [h]), Works.play_busy back state]
      exact next_answered_congr rfl rfl
    · obtain ⟨back_none, plays⟩ := Channel.play_unfed (ch := s.works.chan c) back absent
      rw [answer (by rcases state with h | h <;> simp [h]), Works.play_stopped back state, back_none]
      simp only [Works.modChan, plays]
      exact next_answered_congr rfl rfl
    · intro q
      obtain ⟨back_some, plays⟩ := Channel.play_fed (ch := s.works.chan c) back play expected retained
      rw [answer (by rcases state with h | h <;> simp [h]), Works.play_stopped back state, back_some]
      simp only [Works.modChan, plays]
      exact next_answered_congr rfl rfl
  · intro s m rest c front ⟨of_kind, target, scan_done⟩ sized kind exists_ ch n
    have answer (opened : ch.state ≠ .closed) : exec .reqStep s =
        .next (s.answered m rest (s.works.stepChan c n).1 (s.works.stepChan c n).2) := by
      rw [exec_reqStep, State.carryOut_works front of_kind,
        stepAnswer_of_checks (channelTargetSized_ok scan_done target sized) (Works.transcriptionRefusal_of opened kind)]
    refine ⟨fun state => ?_, fun state absent => ?_, fun p x r state play expected retained ordered => ?_⟩
    · rw [answer (by rcases state with h | h <;> simp [h]), Works.stepChan_busy n state]
      exact next_answered_congr rfl rfl
    · rw [answer (by rcases state with h | h <;> simp [h]), Works.stepChan_unfed n state absent]
    · intro aim q status armed moved freed low
      have aimed : stepTarget p r x n = (q, !decide ((r : Int) ≤ aim ∧ aim ≤ (x : Int))) := clampInt_eq aim ordered
      rw [answer (by rcases state with h | h <;> simp [h]), Works.stepChan_fed n state play expected retained, aimed,
        okOrClamped_not_decide, Works.stepTo_eq scan_done exists_ state play expected]
      exact next_answered_congr rfl rfl

end Sys2Proof.Machine

/-! PROOFS. FEED (09_transcription_playback.md, R147 to R149). -/

namespace Sys2Proof.Machine

theorem exec_reqFeed (s : State) : exec .reqFeed s = s.carryOut 0x33#8 feedAnswer := rfl

/-! ### Checks 2 to 4 of R148 -/

theorem Channel.feedStart_eq (ch : Channel) (rs : List FedRecord) :
    ch.feedStart rs = ch.expected.getD ((rs.map FedRecord.pos).headD 0) := by
  unfold Channel.feedStart
  cases ch.expected with
  | some x => rfl
  | none => rw [List.headD_eq_head?_getD, List.head?_map]; rfl

theorem not_decide_le (a b : Nat) : (!decide (a ≤ b)) = decide (b < a) := by
  simp only [← Nat.not_lt, decide_not, Bool.not_not]

/-- No room in the queue or in a pool, each limit as it fails (R148, check 4). -/
theorem Works.not_hasRoom_eq (k : Works) (c : Nat) (rs : List FedRecord) :
    (!k.hasRoom c rs) =
      (decide (96 < (k.chan c).feed.length + rs.length) ||
        decide (64 < ((k.chan c).feed.filterMap FeedRec.slot).length + (rs.filterMap FedRecord.slotBytes).length) ||
        decide (k.freeEntries < rs.length) || decide (k.freePool.length < (rs.filterMap FedRecord.slotBytes).length)) := by
  simp only [Works.hasRoom, Bool.not_and, not_decide_le]
  rfl

/-- A FEED past the checks of its channel and body (R148). -/
theorem feedAnswer_of_body {m : Message} {s : State} {c : Nat} {rs : List FedRecord}
    (named : channelTarget m s.works = .ok c) (open_ : s.works.transcriptionRefusal c = none)
    (body : feedBody m.body = some rs) :
    feedAnswer m s =
      if (s.works.chan c).endFed || endFollowed rs then (refuse .ended, s)
      else if !follows ((s.works.chan c).feedStart rs) rs then (refuse .gap, s)
      else if !s.works.hasRoom c rs then (refuse .full, s)
      else (⟨.ok, byte3 ((s.works.chan c).feedStart rs + spanFed rs)⟩, s.feed c rs) := by
  simp only [feedAnswer, named, open_, body, Works.feedRefusal]
  split_ifs <;> rfl

/-! ### What a FEED puts into the queue (R149) -/

theorem FedRecord.queuedBody_eq (pool : List Nat) (taken : Nat) (r : FedRecord) :
    r.queuedBody pool taken =
      match r with
      | .speech _ (h :: _) => if h.getLsbD 5 then .lost 1 true else .speech (pool.getD taken 0)
      | .speech _ [] => .lost 1 true
      | .pause _ count => .pause count
      | .lost _ count damaged => .lost count damaged
      | .mark _ kind label => .mark kind label true
      | .endOf _ => .endOf := by
  cases r with
  | speech p frame =>
    cases frame with
    | nil => rfl
    | cons h rest =>
      have slot : (FedRecord.speech p (h :: rest)).slotBytes =
          if h.getLsbD 5 then none else some ((h &&& 0x3F#8) :: rest) := rfl
      unfold FedRecord.queuedBody
      rw [slot]
      by_cases damaged : h.getLsbD 5 = true
      · rw [if_pos damaged]
        exact (if_pos damaged).symm
      · rw [if_neg damaged]
        exact (if_neg damaged).symm
  | pause _ _ => rfl
  | lost _ _ _ => rfl
  | mark _ _ _ => rfl
  | endOf _ => rfl

/-! ### The channel and the pools -/

theorem feedPrepare_eq (queue : List FeedRec) (p x : Nat) :
    feedPrepare queue p x =
      ((queue.find? fun r => r.slot.isSome && decide (p ≤ r.pos)).map FeedRec.pos).getD x := by
  unfold feedPrepare FeedRec.isSpeech
  cases queue.find? fun r => r.slot.isSome && decide (p ≤ r.pos) <;> rfl

theorem Channel.prepareFeed_of_expected {ch : Channel} {x : Nat} (expected : ch.expected = some x) :
    ch.prepareFeed = { ch with prepPoint := ch.prepPoint.map fun p => feedPrepare ch.feed p x } := by
  unfold Channel.prepareFeed
  cases prep : ch.prepPoint with
  | some p => simp only [expected, Option.map_some]
  | none => exact congrArg (fun p => { ch with prepPoint := p }) prep

/-- A channel of a queue without END after a FEED (R149, steps 2 to 4). -/
theorem Channel.feedWith_eq {ch : Channel} {rs : List FedRecord} {added : List FeedRec} (endless : ch.endFed = false) :
    let start := ch.feedStart rs
    let stop := start + spanFed rs
    let moving := ch.state = .playing ∨ ch.state = .starved
    let prepare : Option Nat := if ch.expected = none ∧ moving then some start else ch.prepPoint
    ch.feedWith rs added =
      { ch with
        feed := ch.feed ++ added, expected := some stop, endFed := rs.any FedRecord.isEnd,
        playPoint := if ch.expected = none then some start else ch.playPoint,
        prepPoint := prepare.map fun p => feedPrepare (ch.feed ++ added) p stop } := by
  intro start stop moving prepare
  have prepares : (if ch.expected.isNone then (if moving then some start else ch.prepPoint) else ch.prepPoint) = prepare := by
    cases expected : ch.expected with
    | none => simp [prepare, expected]
    | some x => simp [prepare, expected]
  have plays : (if ch.expected.isNone then some start else ch.playPoint) =
      if ch.expected = none then some start else ch.playPoint := by simp only [Option.isNone_iff_eq_none]
  unfold Channel.feedWith
  dsimp only
  rw [Channel.prepareFeed_of_expected (x := stop) rfl]
  dsimp only
  rw [prepares, plays, endless, Bool.false_or]

/-- Slots taken from the free pool (R128). -/
theorem Works.slotsTaken_done {k : Works} (scan_done : k.startup = .done) :
    let low := k.slotArmed && decide (k.freePool.length < k.slotMark)
    k.slotsTaken =
      { k with
        slotArmed := k.slotArmed && !low,
        events := if low then putEvent ⟨.slotsLow, 255, 0, 0⟩ k.events else k.events } := by
  intro low
  unfold Works.slotsTaken
  split
  · rename_i h
    simp [low, h, Works.raiseDevice, Works.raiseWith, scan_done, deviceChan]
  · rename_i h
    rw [Bool.not_eq_true] at h
    simp [low, h]

theorem Works.entriesTaken_done {k : Works} (scan_done : k.startup = .done) :
    let low := k.entryArmed && decide (k.freeEntries < k.entryMark)
    k.entriesTaken =
      { k with
        entryArmed := k.entryArmed && !low,
        events := if low then putEvent ⟨.entriesLow, 255, 0, 0⟩ k.events else k.events } := by
  intro low
  unfold Works.entriesTaken
  split
  · rename_i h
    simp [low, h, Works.raiseDevice, Works.raiseWith, scan_done, deviceChan]
  · rename_i h
    rw [Bool.not_eq_true] at h
    simp [low, h]

/-- The pools after a FEED (R149, steps 1 and 5). -/
theorem Works.takeForFeed_eq {k : Works} (scan_done : k.startup = .done) (entries : Nat) (frames : List (List Byte)) :
    let free := k.freeEntries - entries
    let pool := k.freePool.drop frames.length
    let slotsLow := k.slotArmed && decide (frames ≠ []) && decide (pool.length < k.slotMark)
    let entriesLow := k.entryArmed && decide (free < k.entryMark)
    let events := if slotsLow then putEvent ⟨.slotsLow, 255, 0, 0⟩ k.events else k.events
    k.takeForFeed entries frames.length =
      { k with
        freeEntries := free, nextEntry := k.nextEntry + entries, freePool := pool,
        slotArmed := k.slotArmed && !slotsLow, entryArmed := k.entryArmed && !entriesLow,
        events := if entriesLow then putEvent ⟨.entriesLow, 255, 0, 0⟩ events else events } := by
  intro free pool slotsLow entriesLow events
  unfold Works.takeForFeed
  dsimp only
  split
  · rename_i none_taken
    have no_frames : frames = [] := List.length_eq_zero_iff.1 none_taken
    rw [Works.entriesTaken_done]
    · simp [slotsLow, no_frames, events, entriesLow, free, pool]
    · exact scan_done
  · rename_i some_taken
    have frames_ne : frames ≠ [] := fun h => some_taken (by rw [h]; rfl)
    rw [Works.slotsTaken_done, Works.entriesTaken_done]
    · simp only [slotsLow, frames_ne, events, entriesLow, free, pool, ne_eq, not_false_eq_true, decide_true, Bool.and_true]
    · exact scan_done
    · exact scan_done

/-- Settles O32: the checks of R148 in their order, and past them `State.feed`, part for part. -/
theorem feedQueuesItsRecords : Obligations.FeedQueuesItsRecords := by
  intro s m rest c rs front ⟨of_kind, target, scan_done⟩ kind opened body exists_ k ch start stop frames gap noRoom
  have starts : ch.feedStart rs = start := Channel.feedStart_eq _ _
  have room : (!k.hasRoom c rs) = noRoom := Works.not_hasRoom_eq _ _ _
  have answer : feedAnswer m (s.taken rest) =
      if ch.endFed || endFollowed rs then (refuse .ended, s.taken rest)
      else if gap then (refuse .gap, s.taken rest)
      else if noRoom then (refuse .full, s.taken rest)
      else (⟨.ok, byte3 stop⟩, (s.taken rest).feed c rs) := by
    rw [feedAnswer_of_body (s := s.taken rest) (channelTarget_ok scan_done target)
      (Works.transcriptionRefusal_of opened kind) body]
    have choices : ∀ refused gone short : Reply × State, (if ch.endFed || endFollowed rs then refused
        else if !follows (ch.feedStart rs) rs then gone else if !k.hasRoom c rs then short
        else (⟨.ok, byte3 (ch.feedStart rs + spanFed rs)⟩, (s.taken rest).feed c rs)) =
        if ch.endFed || endFollowed rs then refused else if gap then gone else if noRoom then short
        else (⟨.ok, byte3 stop⟩, (s.taken rest).feed c rs) := fun _ _ _ => by
      rw [starts, room]
      rfl
    exact choices _ _ _
  refine ⟨fun ended => ?_, fun endless unended gapped => ?_, fun endless unended no_gap full => ?_,
    fun endless unended no_gap fits => ?_⟩
  · have refused : (ch.endFed || endFollowed rs) = true := by
      rcases ended with h | h <;> simp [h]
    rw [exec_reqFeed, State.carryOut_front front of_kind, answer, if_pos refused]
    exact congrArg _ (State.taken_placeReply s m rest _)
  · rw [exec_reqFeed, State.carryOut_front front of_kind, answer, endless, unended, gapped]
    exact congrArg _ (State.taken_placeReply s m rest _)
  · rw [exec_reqFeed, State.carryOut_front front of_kind, answer, endless, unended, no_gap, full]
    exact congrArg _ (State.taken_placeReply s m rest _)
  · intro body queue moving prepare next fed entries pool slotsLow entriesLow events taken
    have enough : (fedFrames rs).length ≤ k.freePool.length := by
      simp only [noRoom, Bool.or_eq_false_iff, decide_eq_false_iff_not] at fits
      exact Nat.not_lt.1 fits.2
    have queues : ch.feed ++ queued k.nextEntry k.freePool rs = queue := by
      rw [queued_eq rs k.nextEntry k.freePool enough]
      simp only [FedRecord.queuedBody_eq]
      rfl
    have feeds : ch.feedWith rs (queued k.nextEntry k.freePool rs) = fed := by
      rw [Channel.feedWith_eq endless, starts, queues]
      simp only [feedPrepare_eq]
      rfl
    have works : k.feedChan c rs = taken.grantIfIdle := by
      unfold Works.feedChan
      have modified : (k.modChan c fun ch => ch.feedWith rs (queued k.nextEntry k.freePool rs)) =
          { k with chans := k.chans.set c fed } := by
        show ({ k with chans := k.chans.set c (ch.feedWith rs (queued k.nextEntry k.freePool rs)) } : Works) = _
        rw [feeds]
      dsimp only
      rw [modified, Works.takeForFeed_eq (k := { k with chans := k.chans.set c fed }) scan_done]
      rfl
    rw [exec_reqFeed, State.carryOut_front front of_kind, answer, endless, unended, no_gap, fits]
    show Host.Outcome.next (((s.taken rest).feed c rs).placeReply m ⟨.ok, byte3 stop⟩) = _
    have fed_state : (s.taken rest).feed c rs =
        { s.taken rest with store := s.store.writeAll (k.freePool.zip frames), works := taken.grantIfIdle } := by
      rw [← works]
      rfl
    rw [fed_state]
    simp only [State.placeReply, State.answered, State.taken]

end Sys2Proof.Machine

/-! PROOFS. TAKE (08_export.md, R131 to R140).

`Letter.Gives` says what stands at the front of a letter's stream and what the letter is without it; each fact about a TAKE
of several items is the fact about one (`Works.takeItem_gives`), taken along the stream. -/

namespace Sys2Proof.Machine

/-! ### The front of a stream (R133) -/

/-- The letter gives an item, and is another letter after it. -/
inductive Letter.Gives (l : Letter) : Offer → Letter → Prop where
  | sealedMark {e : Entry} {m : Mark} {ms : List Mark} {rest : List SealedEntry}
      (front : l.sealedList = ⟨e, m :: ms⟩ :: rest) :
      l.Gives (.mark l.takenPoint m) { l with sealedList := ⟨e, ms⟩ :: rest }
  | entry {e : Entry} {rest : List SealedEntry} (front : l.sealedList = ⟨e, []⟩ :: rest) :
      l.Gives (.entry l.takenPoint e) { l with sealedList := rest }
  | mark {m : Mark} {ms : List Mark} (nothing_sealed : l.sealedList = []) (ending : l.state = .sealing)
      (front : l.marks = m :: ms) : l.Gives (.mark m.pos m) { l with marks := ms }
  | last (nothing_sealed : l.sealedList = []) (ending : l.state = .sealing) (no_marks : l.marks = []) :
      l.Gives .last { l with endTaken := true }

/-- The positions that the sealed list of a letter covers lie below its seal boundary. -/
def Letter.SealedFits (l : Letter) : Prop := (l.sealedList.map fun x => x.entry.count).sum ≤ l.sealB

/-- The letter once so many items of its stream have been taken, END left out (R134, R135). -/
def Letter.leftAfter (l : Letter) (n : Nat) : Letter :=
  { l with
    sealedList := sealedAfter n l.sealedList,
    marks := if l.state = .sealing then l.marks.drop (n - (offersFrom 0 l.sealedList).length) else l.marks }

theorem Letter.takenPoint_eq (l : Letter) :
    l.takenPoint = l.sealB - (l.sealedList.map fun x => x.entry.count).sum := by
  simp only [Letter.takenPoint, spanOf, List.map_map]
  rfl

theorem offersFrom_length (p q : Nat) (xs : List SealedEntry) : (offersFrom p xs).length = (offersFrom q xs).length := by
  induction xs generalizing p q with
  | nil => rfl
  | cons x rest ih => simp [offersFrom, ih (p + x.entry.count) (q + x.entry.count)]

/-- What is given stands at the front of the stream. -/
theorem Letter.Gives.stream {l l' : Letter} {o : Offer} (h : l.Gives o l') (fits : l.SealedFits) :
    l.stream = o :: (if o = .last then [] else l'.stream) := by
  cases h with
  | sealedMark front => simp [Letter.stream, offersFrom, front, Letter.takenPoint_eq]
  | @entry e rest front =>
    have covered : e.count + (rest.map fun x => x.entry.count).sum ≤ l.sealB := by
      simpa [Letter.SealedFits, front] using fits
    have on : l.sealB - (e.count + (rest.map fun x => x.entry.count).sum) + e.count =
        l.sealB - (rest.map fun x => x.entry.count).sum := by omega
    simp [Letter.stream, offersFrom, front, Letter.takenPoint_eq, on]
  | mark nothing_sealed ending front => simp [Letter.stream, offersFrom, nothing_sealed, ending, front]
  | last nothing_sealed ending no_marks => simp [Letter.stream, offersFrom, nothing_sealed, ending, no_marks]

theorem Letter.Gives.sealedFits {l l' : Letter} {o : Offer} (h : l.Gives o l') (fits : l.SealedFits) : l'.SealedFits := by
  unfold Letter.SealedFits at fits ⊢
  cases h with
  | sealedMark front => simpa [front] using fits
  | entry front =>
    rw [front, List.map_cons, List.sum_cons] at fits
    exact (Nat.le_add_left _ _).trans fits
  | mark _ _ _ => exact fits
  | last _ _ _ => exact fits

/-- A letter with a stream gives the item at its front. -/
theorem Letter.gives_of_stream {l : Letter} (h : l.stream ≠ []) : ∃ o l', l.Gives o l' := by
  cases sealed_ : l.sealedList with
  | cons x rest =>
    obtain ⟨e, ms⟩ := x
    cases ms with
    | nil => exact ⟨_, _, .entry sealed_⟩
    | cons m ms => exact ⟨_, _, .sealedMark sealed_⟩
  | nil =>
    have ending : l.state = .sealing := by
      by_contra other
      exact h (by simp [Letter.stream, sealed_, offersFrom, other])
    cases marks : l.marks with
    | nil => exact ⟨_, _, .last sealed_ ending marks⟩
    | cons m ms => exact ⟨_, _, .mark sealed_ ending marks⟩

theorem Letter.stream_eq_nil {l : Letter} (h : l.stream = []) : l.sealedList = [] ∧ l.state ≠ .sealing := by
  cases sealed_ : l.sealedList with
  | cons x rest => simp [Letter.stream, sealed_, offersFrom] at h
  | nil =>
    refine ⟨rfl, fun ending => ?_⟩
    simp [Letter.stream, sealed_, offersFrom, ending] at h

/-- What is left after more items is what they leave of the letter without the first. -/
theorem Letter.Gives.leftAfter {l l' : Letter} {o : Offer} (h : l.Gives o l') (more : o ≠ .last) (n : Nat) :
    l.leftAfter (n + 1) = l'.leftAfter n := by
  cases h with
  | @sealedMark e m ms rest front =>
    have before : (offersFrom 0 (⟨e, m :: ms⟩ :: rest)).length = (offersFrom 0 (⟨e, ms⟩ :: rest)).length + 1 := by
      simp [offersFrom]
    simp only [Letter.leftAfter, front, sealedAfter, before, Nat.add_sub_add_right]
  | @entry e rest front =>
    have before : (offersFrom 0 (⟨e, []⟩ :: rest)).length = (offersFrom 0 rest).length + 1 := by
      simp [offersFrom, offersFrom_length e.count 0]
    simp only [Letter.leftAfter, front, sealedAfter, before, Nat.add_sub_add_right]
  | mark nothing_sealed ending front =>
    cases n <;> simp [Letter.leftAfter, nothing_sealed, ending, front, sealedAfter, offersFrom]
  | last _ _ _ => exact absurd rfl more

/-- The model's fields that an item shows do not change as items are taken. -/
theorem Letter.Gives.bytes {l l' : Letter} {o : Offer} (h : l.Gives o l') (read : Nat → Option (List Byte)) :
    Offer.bytes l' read = Offer.bytes l read := by
  have same : l'.length = l.length ∧ l'.squeezed = l.squeezed := by cases h <;> exact ⟨rfl, rfl⟩
  funext item
  unfold Offer.bytes
  rw [same.1, same.2]

theorem Letter.Gives.endTaken {l l' : Letter} {o : Offer} (h : l.Gives o l') (more : o ≠ .last) :
    l'.endTaken = l.endTaken := by
  cases h with
  | last _ _ _ => exact absurd rfl more
  | _ => rfl

/-! ### What taking items does at the works (R136 to R138) -/

/-- What the read of a slot returns, if it passes. -/
def Store.readOrNone (st : Store) (errs : List CellError) (slot : Nat) : Option (List Byte) :=
  match st.read errs slot with
  | .ok got => got
  | .error _ => none

/-- The slots of the items' SPEECH entries whose reads passed, or failed. -/
def slotsRead (read : Nat → Option (List Byte)) (passed : Bool) (items : List Offer) : List Nat :=
  (slotsOf (items.filterMap Offer.entry?)).filter fun slot => (read slot).isSome == passed

/-- The works once items have been given, with the letter left (R136 to R138). -/
def Works.afterOffers (k : Works) (i : Nat) (left : Letter) (read : Nat → Option (List Byte)) (items : List Offer) : Works :=
  let gone : Works := { k with letters := k.letters.set i left }
  { (slotsRead read false items).foldl Works.retireAtRun gone with
    freeEntries := k.freeEntries + (items.filterMap Offer.entry?).length,
    freePool := k.freePool ++ slotsRead read true items }

/-- Retirement touches neither letters nor pools. -/
theorem Works.retireAtRun_with (k : Works) (slot : Nat) (letters : List Letter) (entries : Nat) (pool : List Nat) :
    ({ k with letters := letters, freeEntries := entries, freePool := pool } : Works).retireAtRun slot =
      { k.retireAtRun slot with letters := letters, freeEntries := entries, freePool := pool } := by
  unfold Works.retireAtRun Works.retire Works.raiseDevice Works.raiseWith
  dsimp only
  split <;> dsimp only <;> split <;> rfl

theorem Works.foldl_retireAtRun_with (slots : List Nat) (k : Works) (letters : List Letter) (entries : Nat)
    (pool : List Nat) :
    slots.foldl Works.retireAtRun { k with letters := letters, freeEntries := entries, freePool := pool } =
      { slots.foldl Works.retireAtRun k with letters := letters, freeEntries := entries, freePool := pool } := by
  induction slots generalizing k with
  | nil => rfl
  | cons slot rest ih => rw [List.foldl_cons, List.foldl_cons, Works.retireAtRun_with, ih]

theorem Works.foldl_retireAtRun_kept (slots : List Nat) (k : Works) :
    (slots.foldl Works.retireAtRun k).letters = k.letters ∧
      (slots.foldl Works.retireAtRun k).freeEntries = k.freeEntries ∧
      (slots.foldl Works.retireAtRun k).freePool = k.freePool := by
  have same := Works.foldl_retireAtRun_with slots k k.letters k.freeEntries k.freePool
  rw [show ({ k with letters := k.letters, freeEntries := k.freeEntries, freePool := k.freePool } : Works) = k from rfl]
    at same
  exact ⟨by rw [same], by rw [same], by rw [same]⟩

theorem Works.afterOffers_eq (k : Works) (i : Nat) (left : Letter) (read : Nat → Option (List Byte)) (items : List Offer) :
    k.afterOffers i left read items =
      { (slotsRead read false items).foldl Works.retireAtRun k with
        letters := k.letters.set i left, freeEntries := k.freeEntries + (items.filterMap Offer.entry?).length,
        freePool := k.freePool ++ slotsRead read true items } := by
  have gone := Works.foldl_retireAtRun_with (slotsRead read false items) k (k.letters.set i left) k.freeEntries k.freePool
  unfold Works.afterOffers
  dsimp only
  rw [gone]

theorem slotsRead_append (read : Nat → Option (List Byte)) (passed : Bool) (items more : List Offer) :
    slotsRead read passed (items ++ more) = slotsRead read passed items ++ slotsRead read passed more := by
  simp only [slotsRead, List.filterMap_append, slotsOf_append, List.filter_append]

/-- The effects of items taken one after the other. -/
theorem Works.afterOffers_append (k : Works) (i : Nat) (l l' : Letter) (read : Nat → Option (List Byte))
    (items more : List Offer) :
    (k.afterOffers i l read items).afterOffers i l' read more = k.afterOffers i l' read (items ++ more) := by
  rw [Works.afterOffers_eq (k.afterOffers i l read items), k.afterOffers_eq i l, k.afterOffers_eq i l',
    Works.foldl_retireAtRun_with]
  simp only [slotsRead_append, List.foldl_append, List.filterMap_append, List.length_append, List.set_set, Nat.add_assoc,
    List.append_assoc]

/-- Items without entries change the letter alone. -/
theorem Works.afterOffers_no_entry (k : Works) (i : Nat) (l : Letter) (read : Nat → Option (List Byte)) {items : List Offer}
    (h : items.filterMap Offer.entry? = []) : k.afterOffers i l read items = { k with letters := k.letters.set i l } := by
  simp [Works.afterOffers, slotsRead, h, slotsOf]

/-- An entry whose item a TAKE can give: it is coded (R51), and its slot exists (log 10). -/
def Entry.Readable (st : Store) (e : Entry) : Prop :=
  e.body ≠ .speech none ∧ ∀ slot, e.body = .speech (some slot) → st.words slot ≠ none

theorem Store.read_of_words {st : Store} {slot : Nat} (h : st.words slot ≠ none) (errs : List CellError) :
    st.read errs slot = .ok (st.readOrNone errs slot) := by
  cases words : st.words slot with
  | none => exact absurd words h
  | some found => simp only [Store.readOrNone, Store.read, words]

section
variable (k : Works) (i p id : Nat) (l : Letter) (read : Nat → Option (List Byte))

theorem slotsRead_run (kind : RunKind) (n : Nat) (passed : Bool) :
    slotsRead read passed [.entry p ⟨id, .run kind n⟩] = [] := rfl

theorem slotsRead_speech (slot : Nat) (passed : Bool) :
    slotsRead read passed [.entry p ⟨id, .speech (some slot)⟩] = if (read slot).isSome == passed then [slot] else [] := by
  refine (List.filter_singleton ..).trans ?_
  cases (read slot).isSome == passed <;> rfl

theorem Works.afterOffers_run (kind : RunKind) (n : Nat) :
    k.afterOffers i l read [.entry p ⟨id, .run kind n⟩] =
      { k with letters := k.letters.set i l, freeEntries := k.freeEntries + 1 } := by
  simp only [Works.afterOffers, slotsRead_run, List.append_nil]
  rfl

theorem Works.afterOffers_passed {slot : Nat} {bytes : List Byte} (got : read slot = some bytes) :
    k.afterOffers i l read [.entry p ⟨id, .speech (some slot)⟩] =
      { k with letters := k.letters.set i l, freeEntries := k.freeEntries + 1, freePool := k.freePool ++ [slot] } := by
  simp only [Works.afterOffers, slotsRead_speech, got]
  rfl

theorem Works.afterOffers_failed {slot : Nat} (got : read slot = none) :
    k.afterOffers i l read [.entry p ⟨id, .speech (some slot)⟩] =
      ({ k with letters := k.letters.set i l, freeEntries := k.freeEntries + 1 } : Works).retireAtRun slot := by
  rw [Works.afterOffers_eq]
  simp only [slotsRead_speech, got]
  exact (k.retireAtRun_with slot (k.letters.set i l) (k.freeEntries + 1) (k.freePool ++ [])).symm.trans
    (by rw [List.append_nil])

end

/-- An entry is taken (R136 to R138). -/
theorem Works.takeEntry_eq {k : Works} {st : Store} {i : Nat} {e : Entry} (readable : e.Readable st)
    (errs : List CellError) (rest : List SealedEntry) :
    k.takeEntry st errs i e rest =
      .ok (some ⟨k.afterOffers i { k.letter i with sealedList := rest } (st.readOrNone errs)
          [.entry (k.letter i).takenPoint e],
        Offer.bytes (k.letter i) (st.readOrNone errs) (.entry (k.letter i).takenPoint e), false⟩) := by
  obtain ⟨id, body⟩ := e
  cases body with
  | run kind n =>
    rw [Works.afterOffers_run]
    cases kind <;> rfl
  | speech held =>
    cases held with
    | none => exact absurd rfl readable.1
    | some slot =>
      simp only [Works.takeEntry, Store.read_of_words (readable.2 slot rfl) errs, Offer.bytes]
      cases got : st.readOrNone errs slot with
      | none =>
        rw [Works.afterOffers_failed k i _ id _ _ got]
        rfl
      | some bytes =>
        rw [Works.afterOffers_passed k i _ id _ _ got]
        rfl

theorem Works.takeItem_ending {k : Works} {st : Store} {errs : List CellError} {i : Nat}
    (nothing_sealed : (k.letter i).sealedList = []) (ending : (k.letter i).state = .sealing) :
    k.takeItem st errs i = .ok (some (k.takeEnding i)) := by
  simp only [Works.takeItem, nothing_sealed, ending, if_true]

theorem Works.takeEnding_mark {k : Works} {i : Nat} {m : Mark} {ms : List Mark} (front : (k.letter i).marks = m :: ms) :
    k.takeEnding i = ⟨k.modLetter i fun l => { l with marks := ms }, markItemBytes m.pos m, false⟩ := by
  simp only [Works.takeEnding, front]

theorem Works.takeEnding_last {k : Works} {i : Nat} (no_marks : (k.letter i).marks = []) :
    k.takeEnding i = ⟨k.modLetter i fun l => { l with endTaken := true }, endItemBytes (k.letter i), true⟩ := by
  simp only [Works.takeEnding, no_marks]

/-- The item at the front of the stream is taken (R133 to R139). -/
theorem Works.takeItem_gives {k : Works} {st : Store} {i : Nat} {o : Offer} {left : Letter} (gives : (k.letter i).Gives o left)
    (readable : ∀ e, o.entry? = some e → e.Readable st) (errs : List CellError) :
    k.takeItem st errs i =
      .ok (some ⟨k.afterOffers i left (st.readOrNone errs) [o], Offer.bytes (k.letter i) (st.readOrNone errs) o,
        decide (o = .last)⟩) := by
  cases gives with
  | sealedMark front =>
    rw [Works.afterOffers_no_entry _ _ _ _ rfl]
    simp only [Works.takeItem, front]
    rfl
  | entry front =>
    simp only [Works.takeItem, front, Works.takeEntry_eq (readable _ rfl) errs]
    rfl
  | mark nothing_sealed ending front =>
    rw [Works.afterOffers_no_entry _ _ _ _ rfl, Works.takeItem_ending nothing_sealed ending]
    rw [Works.takeEnding_mark front]
    rfl
  | last nothing_sealed ending no_marks =>
    rw [Works.afterOffers_no_entry _ _ _ _ rfl, Works.takeItem_ending nothing_sealed ending]
    rw [Works.takeEnding_last no_marks]
    rfl

/-- With an empty stream no item is taken (R134). -/
theorem Works.takeItem_none {k : Works} {i : Nat} (h : (k.letter i).stream = []) (st : Store) (errs : List CellError) :
    k.takeItem st errs i = .ok none := by
  obtain ⟨nothing_sealed, not_ending⟩ := Letter.stream_eq_nil h
  simp only [Works.takeItem, nothing_sealed, if_neg not_ending]

theorem Works.letter_afterOffers {k : Works} {i : Nat} (exists_ : i < k.letters.length) (l : Letter)
    (read : Nat → Option (List Byte)) (items : List Offer) :
    (k.afterOffers i l read items).letter i = l ∧ i < (k.afterOffers i l read items).letters.length := by
  rw [Works.afterOffers_eq]
  constructor
  · show (k.letters.set i l).getD i _ = l
    simp [List.getD_eq_getElem?_getD, exists_]
  · simpa using exists_

/-- The letter at the end of a TAKE of `n` items, END noted (R139). -/
def Letter.endedAfter (l : Letter) (n : Nat) : Letter :=
  { l.leftAfter n with endTaken := l.endTaken || decide (.last ∈ l.stream.take n) }

theorem Letter.endedAfter_none {l : Letter} (h : l.stream = []) (n : Nat) : l.endedAfter n = l := by
  obtain ⟨nothing_sealed, not_ending⟩ := Letter.stream_eq_nil h
  have still : sealedAfter n l.sealedList = l.sealedList := by
    rw [nothing_sealed]
    cases n <;> rfl
  simp [Letter.endedAfter, Letter.leftAfter, h, still, not_ending]

theorem Letter.endedAfter_zero (l : Letter) : l.endedAfter 0 = l := by
  simp [Letter.endedAfter, Letter.leftAfter, sealedAfter]

/-- After one item the rest goes on as from the letter without it. -/
theorem Letter.Gives.endedAfter {l l' : Letter} {o : Offer} (h : l.Gives o l') (fits : l.SealedFits) (n : Nat) :
    l.endedAfter (n + 1) = if o = .last then l' else l'.endedAfter n := by
  have stream := h.stream fits
  split
  · rename_i at_end
    subst at_end
    cases h with
    | last nothing_sealed ending no_marks =>
      simp [Letter.endedAfter, stream, Letter.leftAfter, nothing_sealed, no_marks, sealedAfter]
  · rename_i more
    rw [if_neg more] at stream
    simp only [Letter.endedAfter, h.leftAfter more, stream, List.take_succ_cons, List.mem_cons, Ne.symm more, false_or,
      h.endTaken more]

theorem Works.afterOffers_nil {k : Works} {i : Nat} (exists_ : i < k.letters.length) (read : Nat → Option (List Byte)) :
    k.afterOffers i (k.letter i) read [] = k := by
  rw [Works.afterOffers_no_entry _ _ _ _ rfl, Works.letter_eq_getElem exists_, List.set_getElem_self]

/-- Up to `n` items from the front of the stream (R134). -/
theorem Works.takeItems_eq (st : Store) (errs : List CellError) (i : Nat) (n : Nat) {k : Works}
    (exists_ : i < k.letters.length) (fits : (k.letter i).SealedFits)
    (readable : ∀ e ∈ ((k.letter i).stream.take n).filterMap Offer.entry?, e.Readable st) :
    Works.takeItems st errs i n k =
      .ok (k.afterOffers i ((k.letter i).endedAfter n) (st.readOrNone errs) ((k.letter i).stream.take n),
        ((k.letter i).stream.take n).map (Offer.bytes (k.letter i) (st.readOrNone errs))) := by
  induction n generalizing k with
  | zero =>
    rw [Works.takeItems, List.take_zero, Letter.endedAfter_zero, Works.afterOffers_nil exists_]
    rfl
  | succ n ih =>
    by_cases empty : (k.letter i).stream = []
    · rw [Works.takeItems, Works.takeItem_none empty, empty, List.take_nil, Letter.endedAfter_none empty,
        Works.afterOffers_nil exists_]
      rfl
    · obtain ⟨o, left, gives⟩ := Letter.gives_of_stream empty
      have stream := gives.stream fits
      have first_readable : ∀ e, o.entry? = some e → e.Readable st := fun e he =>
        readable e (by rw [stream]; simp [he])
      have item := Works.takeItem_gives gives first_readable errs
      rw [gives.endedAfter fits, stream, List.take_succ_cons]
      rw [Works.takeItems, item]
      by_cases at_end : o = .last
      · simp only [at_end, decide_true, if_true, List.take_nil, List.map_cons, List.map_nil]
      · simp only [at_end, decide_false, if_false]
        obtain ⟨reads, still⟩ := Works.letter_afterOffers exists_ left (st.readOrNone errs) [o]
        rw [if_neg at_end] at stream
        have rest := ih still (by rw [reads]; exact gives.sealedFits fits) (by
          rw [reads]
          intro e he
          refine readable e ?_
          rw [stream, List.take_succ_cons, List.filterMap_cons]
          cases o.entry? with
          | none => exact he
          | some f => exact List.mem_cons_of_mem _ he)
        rw [reads] at rest
        rw [rest, Works.afterOffers_append, gives.bytes]
        rfl

/-! ### The TAKE (R131, R139, R140) -/

/-- The works after a TAKE that gave items and left a letter: what is freed returns together, and a letter whose END is
among them is FREE. -/
def Works.afterTake (k : Works) (i : Nat) (left : Letter) (read : Nat → Option (List Byte)) (items : List Offer) : Works :=
  ((slotsRead read false items).foldl Works.retireAtRun
    { k with letters := k.letters.set i (if left.endTaken then Letter.freeRecord else left) }).given
      (items.filterMap Offer.entry?).length (slotsRead read true items)

/-- The comparisons after a TAKE are those of returning what it freed at once. -/
theorem Works.afterFrees_given {k gone : Works} (entries : gone.freeEntries = k.freeEntries) (pool : gone.freePool = k.freePool)
    (n : Nat) (slots : List Nat) :
    ({ gone with freeEntries := k.freeEntries + n, freePool := k.freePool ++ slots } : Works).afterFrees k =
      gone.given n slots := by
  rw [← Works.giveBack_eq_given, Works.giveBack, Works.afterFrees, entries, pool]
  have grows : k.freePool.length < (k.freePool ++ slots).length ↔ ¬slots.isEmpty = true := by cases slots <;> simp
  have more : k.freeEntries < k.freeEntries + n ↔ ¬n = 0 := by omega
  simp only [grows, more, ite_not]

theorem Works.taken_eq {k : Works} {i : Nat} (exists_ : i < k.letters.length) (left : Letter)
    (read : Nat → Option (List Byte)) (items : List Offer) :
    ((k.afterOffers i left read items).afterFrees k).freeIfEnded i = k.afterTake i left read items := by
  obtain ⟨letters, entries, pool⟩ := Works.foldl_retireAtRun_kept (slotsRead read false items)
    { k with letters := k.letters.set i left }
  have freed := Works.afterFrees_given (k := k) entries pool (items.filterMap Offer.entry?).length (slotsRead read true items)
  rw [Works.afterOffers, freed, Works.freeIfEnded]
  have reads : ((((slotsRead read false items).foldl Works.retireAtRun { k with letters := k.letters.set i left }).given
      (items.filterMap Offer.entry?).length (slotsRead read true items)).letter i) = left := by
    simp [Works.letter, Works.given, letters, List.getD_eq_getElem?_getD, exists_]
  rw [reads]
  cases ended : left.endTaken with
  | false =>
    rw [Works.afterTake, ended]
    rfl
  | true =>
    have frees := Works.foldl_retireAtRun_with (slotsRead read false items) { k with letters := k.letters.set i left }
      (k.letters.set i Letter.freeRecord) k.freeEntries k.freePool
    have freed_letter : ({ k with letters := k.letters.set i Letter.freeRecord } : Works) =
        { ({ k with letters := k.letters.set i left } : Works) with
          letters := k.letters.set i Letter.freeRecord, freeEntries := k.freeEntries, freePool := k.freePool } := rfl
    rw [Works.afterTake, ended, if_pos rfl, if_pos rfl, freed_letter, frees]
    simp only [Works.given, Works.modLetter, letters, List.set_set, entries, pool]

/-- A TAKE gives the front of the stream (R131, R134). -/
theorem Works.takeFrom_eq {k : Works} {st : Store} {i : Nat} (exists_ : i < k.letters.length)
    (fits : (k.letter i).SealedFits) (errs : List CellError) (n : Nat)
    (readable : ∀ e ∈ ((k.letter i).stream.take (max 1 (min 8 n))).filterMap Offer.entry?, e.Readable st) :
    let items := (k.letter i).stream.take (max 1 (min 8 n))
    k.takeFrom st errs i n =
      .ok (⟨if 1 ≤ n ∧ n ≤ 8 then .ok else .clamped,
          byte1 items.length ++ (items.map (Offer.bytes (k.letter i) (st.readOrNone errs))).flatten⟩,
        k.afterTake i ((k.letter i).endedAfter (max 1 (min 8 n))) (st.readOrNone errs) items) := by
  intro items
  rw [Works.takeFrom, clampNat_eq n (by decide)]
  simp only [Works.takeItems_eq st errs i _ exists_ fits readable, okOrClamped_not_decide, List.length_map,
    Works.taken_eq exists_]
  rfl

/-- A TAKE of one item (R131, R134). -/
theorem Works.takeFrom_one {k : Works} {st : Store} {i n : Nat} (small : n ≤ 1) (exists_ : i < k.letters.length) {o : Offer}
    {left : Letter} (gives : (k.letter i).Gives o left) (readable : ∀ e, o.entry? = some e → e.Readable st)
    (errs : List CellError) :
    k.takeFrom st errs i n =
      .ok (⟨if n = 1 then .ok else .clamped, byte1 1 ++ Offer.bytes (k.letter i) (st.readOrNone errs) o⟩,
        k.afterTake i left (st.readOrNone errs) [o]) := by
  have one : Works.takeItems st errs i 1 k =
      .ok (k.afterOffers i left (st.readOrNone errs) [o], [Offer.bytes (k.letter i) (st.readOrNone errs) o]) := by
    simp only [Works.takeItems, Works.takeItem_gives gives readable errs]
    split <;> rfl
  have limit : max 1 (min 8 n) = 1 := by omega
  have in_range : (1 ≤ n ∧ n ≤ 8) = (n = 1) := by
    rw [eq_iff_iff]
    omega
  rw [Works.takeFrom, clampNat_eq n (by decide)]
  simp only [limit, one, okOrClamped_not_decide, in_range, Works.taken_eq exists_, List.length_singleton,
    List.flatten_singleton]

end Sys2Proof.Machine

/-! PROOFS. The TAKE request (08_export.md; R190): what the stream lemmas say of the letter with the job number carried. -/

namespace Sys2Proof.Machine

theorem Works.lt_of_findJob {k : Works} {job i : Nat} (h : k.findJob job = some i) : i < k.letters.length := by
  obtain ⟨inside, -⟩ := List.findIdx?_eq_some_iff_getElem.1 h
  exact inside

/-- A TAKE request past its checks (R131). -/
theorem exec_reqTake_of_body {s : State} {m : Message} {rest : List Message} {i : Nat} {a b c d n : Byte}
    (front : s.AtFront m rest) (asks : m.AsksDevice 0x30#8 s.works) (body : m.body = [a, b, c, d, n])
    (found : s.works.findJob (leValue [a, b, c, d]) = some i) (errs : List CellError) :
    (∀ r k, s.works.takeFrom s.store errs i n.toNat = .ok (r, k) →
      exec (.reqTake errs) s = .next (s.answered m rest r k)) ∧
    (∀ f, s.works.takeFrom s.store errs i n.toNat = .error f → exec (.reqTake errs) s = .fault f) := by
  obtain ⟨of_kind, target, scan_done⟩ := asks
  have passes : deviceChecks true m (s.taken rest).works (fun len => decide (4 ≤ len)) = none :=
    deviceChecks_ok scan_done target (by simp [body])
  have answer : takeAnswer errs m (s.taken rest) = s.works.takeFrom s.store errs i n.toNat := by
    have found' : (s.taken rest).works.findJob (leValue (m.body.take 4)) = some i := by rw [body]; exact found
    have counted : takeCount m.body = some n.toNat := by rw [body]; rfl
    simp only [takeAnswer, passes, found', counted]
    rfl
  have runs : exec (.reqTake errs) s =
      match takeAnswer errs m (s.taken rest) with
      | .error f => .fault f
      | .ok (r, k) => .next ({ s.taken rest with works := k }.placeReply m r) := by
    rw [exec_reqTake, execReqTake,
      State.takeRequest_front front (wanted := fun b => decide (b = 0x30#8)) (by simp [of_kind])] <;>
    rfl
  refine ⟨fun r k took => ?_, fun f faulted => ?_⟩
  · rw [runs, answer, took]
    simp only [State.placeReply, State.answered, State.taken]
  · rw [runs, answer, faulted]

theorem Works.given_nothing (k : Works) : k.given 0 [] = k := by simp [Works.given]

section
variable {k : Works} {i p id : Nat} {left : Letter} {read : Nat → Option (List Byte)} (going_on : left.endTaken = false)
include going_on

theorem Works.afterTake_mark (m : Mark) :
    k.afterTake i left read [.mark p m] = { k with letters := k.letters.set i left } := by
  rw [Works.afterTake, going_on]
  exact Works.given_nothing _

theorem Works.afterTake_run (kind : RunKind) (n : Nat) :
    k.afterTake i left read [.entry p ⟨id, .run kind n⟩] =
      ({ k with letters := k.letters.set i left } : Works).given 1 [] := by
  rw [Works.afterTake, going_on]
  rfl

theorem Works.afterTake_passed {slot : Nat} {bytes : List Byte} (got : read slot = some bytes) :
    k.afterTake i left read [.entry p ⟨id, .speech (some slot)⟩] =
      ({ k with letters := k.letters.set i left } : Works).given 1 [slot] := by
  simp only [Works.afterTake, going_on, slotsRead_speech, got]
  rfl

theorem Works.afterTake_failed {slot : Nat} (got : read slot = none) :
    k.afterTake i left read [.entry p ⟨id, .speech (some slot)⟩] =
      (({ k with letters := k.letters.set i left } : Works).retireAtRun slot).given 1 [] := by
  simp only [Works.afterTake, going_on, slotsRead_speech, got]
  rfl

end

theorem Store.words_of_read {st : Store} {errs : List CellError} {slot : Nat} {got : Option (List Byte)}
    (h : st.read errs slot = .ok got) : st.words slot ≠ none ∧ st.readOrNone errs slot = got := by
  refine ⟨fun missing => ?_, by rw [Store.readOrNone, h]⟩
  rw [Store.read, missing] at h
  cases h

/-- A coded entry whose slot can be read is readable. -/
theorem Entry.readable_speech {st : Store} {id slot : Nat} (h : st.words slot ≠ none) :
    Entry.Readable st ⟨id, .speech (some slot)⟩ := by
  refine ⟨by simp, fun other same => ?_⟩
  simp only [EntryBody.speech.injEq, Option.some.injEq] at same
  rwa [← same]

theorem Entry.readable_run (st : Store) (id : Nat) (kind : RunKind) (n : Nat) : Entry.Readable st ⟨id, .run kind n⟩ :=
  ⟨by simp, fun _ h => nomatch h⟩

/-- A faulting read is the TAKE's fault (log 10). -/
theorem Works.takeFrom_fault {k : Works} {st : Store} {errs : List CellError} {i n slot : Nat} {f : Fault} {e : Entry}
    {rest : List SealedEntry} (small : n ≤ 1) (front : (k.letter i).sealedList = ⟨e, []⟩ :: rest)
    (speech : e.body = .speech (some slot)) (faults : st.read errs slot = .error f) :
    k.takeFrom st errs i n = .error f := by
  have item : k.takeItem st errs i = .error f := by
    simp only [Works.takeItem, front, Works.takeEntry, speech, faults]
  have limit : max 1 (min 8 n) = 1 := by omega
  rw [Works.takeFrom, clampNat_eq n (by decide)]
  simp only [limit, Works.takeItems, item]

/-- The slots of entries in a list of items are those of the entries. -/
theorem readable_of_items {st : Store} {items : List Offer}
    (coded : ∀ e ∈ items.filterMap Offer.entry?, e.body ≠ .speech none)
    (exist : ∀ slot ∈ slotsOf (items.filterMap Offer.entry?), st.words slot ≠ none) :
    ∀ e ∈ items.filterMap Offer.entry?, e.Readable st := fun e he =>
  ⟨coded e he, fun slot held => exist slot (List.mem_filterMap.2 ⟨e, he, by rw [Entry.slot, held]⟩)⟩

theorem Works.afterTake_eq (k : Works) (i : Nat) (l : Letter) (read : Nat → Option (List Byte)) (n : Nat)
    (going_on : l.endTaken = false) :
    k.afterTake i (l.endedAfter n) read (l.stream.take n) =
      ((((slotsOf ((l.stream.take n).filterMap Offer.entry?)).filter fun slot => (read slot).isNone).foldl Works.retireAtRun
        { k with
          letters := k.letters.set i (if .last ∈ l.stream.take n then Letter.freeRecord else l.leftAfter n) }).given
        ((l.stream.take n).filterMap Offer.entry?).length
        ((slotsOf ((l.stream.take n).filterMap Offer.entry?)).filter fun slot => (read slot).isSome)) := by
  have letters : (if (l.endedAfter n).endTaken then Letter.freeRecord else l.endedAfter n) =
      if .last ∈ l.stream.take n then Letter.freeRecord else l.leftAfter n := by
    by_cases ended : .last ∈ l.stream.take n
    · simp [Letter.endedAfter, ended]
    · simp [Letter.endedAfter, ended, going_on, Letter.leftAfter]
  have passed : slotsRead read true (l.stream.take n) =
      (slotsOf ((l.stream.take n).filterMap Offer.entry?)).filter fun slot => (read slot).isSome := by simp [slotsRead]
  have failed : slotsRead read false (l.stream.take n) =
      (slotsOf ((l.stream.take n).filterMap Offer.entry?)).filter fun slot => (read slot).isNone := by simp [slotsRead]
  rw [Works.afterTake, letters, passed, failed]

/-- Settles O30: each item at the front by what the letter gives, the stream item by item, and the two streams without a
sealed entry as cases of it. -/
theorem takeGivesTheItemAtTheFront : Obligations.TakeGivesTheItemAtTheFront := by
  refine ⟨?_, ?_, ?_, ?_⟩
  · intro s m rest errs i a b c d n e marks after front asks body small found sealed_ going_on l point status gone
    obtain ⟨takes, faults⟩ := exec_reqTake_of_body front asks body found errs
    have exists_ := Works.lt_of_findJob found
    have at_point : l.takenPoint = point := Letter.takenPoint_eq l
    have replied : (if n.toNat = 1 then Status.ok else .clamped) = status := by
      have : n.toNat = 1 ↔ n = 1#8 := by rw [← BitVec.toNat_inj]; rfl
      simp only [this, status]
    have one {o : Offer} {left : Letter} (gives : l.Gives o left) (readable : ∀ f, o.entry? = some f → f.Readable s.store) :
        exec (.reqTake errs) s = .next (s.answered m rest ⟨status, byte1 1 ++ Offer.bytes l (s.store.readOrNone errs) o⟩
          (s.works.afterTake i left (s.store.readOrNone errs) [o])) := by
      rw [← replied]
      exact takes _ _ (Works.takeFrom_one small exists_ gives readable errs)
    have entry (no_marks : marks = []) : l.Gives (.entry point e) { l with sealedList := after } := by
      rw [← at_point]
      exact .entry (by rw [← no_marks]; exact sealed_)
    refine ⟨fun f ms has => ?_, fun count no_marks run => ?_, fun count no_marks run => ?_,
      fun slot bytes no_marks speech got => ?_, fun slot no_marks speech got => ?_, fun slot f no_marks speech got => ?_⟩
    · have gives : l.Gives (.mark point f) { l with sealedList := ⟨e, ms⟩ :: after } := by
        rw [← at_point]
        exact .sealedMark (by rw [← has]; exact sealed_)
      rw [one gives (fun _ h => nomatch h), Works.afterTake_mark (left := { l with sealedList := ⟨e, ms⟩ :: after }) going_on]
      rfl
    · obtain ⟨id, _⟩ := e
      subst run
      rw [one (entry no_marks) (fun g h => Option.some.inj h ▸ Entry.readable_run _ _ _ _),
        Works.afterTake_run (left := { l with sealedList := after }) going_on]
      rfl
    · obtain ⟨id, _⟩ := e
      subst run
      rw [one (entry no_marks) (fun g h => Option.some.inj h ▸ Entry.readable_run _ _ _ _),
        Works.afterTake_run (left := { l with sealedList := after }) going_on]
      rfl
    · obtain ⟨id, _⟩ := e
      subst speech
      obtain ⟨words, read⟩ := Store.words_of_read got
      rw [one (entry no_marks) (fun g h => Option.some.inj h ▸ Entry.readable_speech words),
        Works.afterTake_passed (left := { l with sealedList := after }) going_on read]
      simp only [Offer.bytes, read]
      rfl
    · obtain ⟨id, _⟩ := e
      subst speech
      obtain ⟨words, read⟩ := Store.words_of_read got
      rw [one (entry no_marks) (fun g h => Option.some.inj h ▸ Entry.readable_speech words),
        Works.afterTake_failed (left := { l with sealedList := after }) going_on read]
      simp only [Offer.bytes, read]
      rfl
    · exact faults f (Works.takeFrom_fault small (by rw [← no_marks]; exact sealed_) speech got)
  · intro s m rest errs i a b c d n front asks body found going_on l count items slots entries read fits coded exist
      sealedMarks left bad gone
    obtain ⟨takes, -⟩ := exec_reqTake_of_body front asks body found errs
    have took := Works.takeFrom_eq (Works.lt_of_findJob found) fits errs n.toNat (readable_of_items coded exist)
    rw [takes _ _ took, Works.afterTake_eq _ _ _ _ _ going_on]
    rfl
  · intro s m rest errs i a b c d n front asks body found nothing_sealed not_ending going_on
    obtain ⟨takes, -⟩ := exec_reqTake_of_body front asks body found errs
    have empty : (s.works.letter i).stream = [] := by simp [Letter.stream, nothing_sealed, offersFrom, not_ending]
    have took := Works.takeFrom_eq (Works.lt_of_findJob found) (st := s.store) (i := i)
      (by simp [Letter.SealedFits, nothing_sealed]) errs n.toNat (by simp [empty])
    have unchanged : s.works.letters.set i (s.works.letter i) = s.works.letters := by
      rw [Works.letter_eq_getElem (Works.lt_of_findJob found), List.set_getElem_self]
    rw [takes _ _ took]
    refine next_answered_congr (by simp only [empty, List.take_nil]; rfl) ?_
    rw [Letter.endedAfter_none empty, empty, List.take_nil, Works.afterTake, going_on]
    show (Works.given { s.works with letters := s.works.letters.set i (s.works.letter i) } 0 []) = s.works
    rw [unchanged, Works.given_nothing]
  · intro s m rest errs i a b c d n front asks body found nothing_sealed ending going_on l count marks status
    obtain ⟨takes, -⟩ := exec_reqTake_of_body front asks body found errs
    have stream : l.stream = (l.marks.map fun f => Offer.mark f.pos f) ++ [.last] := by
      simp [Letter.stream, l, nothing_sealed, offersFrom, ending]
    have no_entries : (l.stream.take count).filterMap Offer.entry? = [] := by
      have none_there : l.stream.filterMap Offer.entry? = [] := by
        rw [stream, List.filterMap_append, List.filterMap_map]
        exact List.append_eq_nil_iff.2 ⟨List.filterMap_eq_nil_iff.2 fun _ _ => rfl, rfl⟩
      exact List.filterMap_eq_nil_iff.2 fun o ho => List.filterMap_eq_nil_iff.1 none_there o (List.mem_of_mem_take ho)
    have took := Works.takeFrom_eq (Works.lt_of_findJob found) (st := s.store) (i := i)
      (by simp [Letter.SealedFits, nothing_sealed]) errs n.toNat (by
        rw [show ((s.works.letter i).stream.take (max 1 (min 8 n.toNat))).filterMap Offer.entry? = [] from no_entries]
        simp)
    have still : sealedAfter count l.sealedList = l.sealedList := by
      rw [show l.sealedList = [] from nothing_sealed]
      cases count <;> rfl
    have left : l.leftAfter count = { l with marks := l.marks.drop count } := by
      rw [Letter.leftAfter, still, if_pos (show l.state = .sealing from ending)]
      simp [show l.sealedList = [] from nothing_sealed, offersFrom]
    have works : s.works.afterTake i (l.endedAfter count) (s.store.readOrNone errs) (l.stream.take count) =
        { s.works with
          letters := s.works.letters.set i (if .last ∈ l.stream.take count then Letter.freeRecord else l.leftAfter count) } := by
      rw [Works.afterTake_eq _ _ _ _ _ going_on, no_entries]
      exact Works.given_nothing _
    refine ⟨fun enough => ?_, fun short => ?_⟩
    · have items : l.stream.take count = (l.marks.take count).map fun f => Offer.mark f.pos f := by
        rw [stream, List.take_append_of_le_length (by simpa using enough), List.map_take]
      have not_last : .last ∉ l.stream.take count := by
        rw [items]
        intro h
        obtain ⟨_, -, h⟩ := List.mem_map.1 h
        cases h
      rw [takes _ _ took]
      refine next_answered_congr ?_ (works.trans (by rw [if_neg not_last, left]))
      show (⟨status, byte1 (l.stream.take count).length ++ ((l.stream.take count).map _).flatten⟩ : Reply) = _
      rw [items, List.map_map, List.length_map, List.length_take, min_eq_left enough]
      rfl
    · have items : l.stream.take count = (l.marks.map fun f => Offer.mark f.pos f) ++ [.last] := by
        rw [stream]
        exact List.take_of_length_le (by simpa using short)
      have at_last : .last ∈ l.stream.take count := by
        rw [items]
        simp
      have all_marks : l.marks.take count = l.marks := List.take_of_length_le short.le
      rw [takes _ _ took]
      refine next_answered_congr ?_ (works.trans (by rw [if_pos at_last]))
      show (⟨status, byte1 (l.stream.take count).length ++ ((l.stream.take count).map _).flatten⟩ : Reply) = _
      simp only [items, marks, all_marks, List.map_append, List.map_map, List.length_append, List.length_map,
        List.flatten_append, List.append_assoc]
      rfl

end Sys2Proof.Machine

/-! PROOFS. SET (03_controller_link.md, R92 to R95): the body field by field, and the channels one after the other. -/

namespace Sys2Proof.Machine

theorem exec_reqSet (s : State) : exec .reqSet s = s.carryOut 0x07#8 (onWorks setAnswer) := rfl

/-! ### The fields of a SET (R93, R189) -/

/-- The three bytes of a field: its code and its value. -/
def fieldBytes (f : Byte × Byte × Byte) : List Byte := [f.1, f.2.1, f.2.2]

/-- The setting that a field carries (R93). -/
def fieldSetting (f : Byte × Byte × Byte) : Option (SettingValue × Bool) :=
  settingOf f.1.toNat (f.2.1.toNat + 256 * f.2.2.toNat)

theorem leValue_pair (l h : Byte) : leValue [l, h] = l.toNat + 256 * h.toNat := rfl

theorem clampedSetting_eq (f : Nat → SettingValue) {lo hi : Nat} (v : Nat) (h : lo ≤ hi) :
    clampedSetting f lo hi v = some (f (max lo (min hi v)), decide (v < lo ∨ hi < v)) := by
  rw [clampedSetting, clampNat_eq v h]
  have outside : (!decide (lo ≤ v ∧ v ≤ hi)) = decide (v < lo ∨ hi < v) := by
    rw [← decide_not]
    exact decide_eq_decide.2 (by omega)
  rw [outside]

/-- The fields of a SET (R189): each code of the table, at most once. -/
theorem settingFields_eq (fields : List (Byte × Byte × Byte)) (seen : List Nat) :
    settingFields (fields.flatMap fieldBytes) seen =
      if (∀ f ∈ fields, f.1.toNat ∉ seen) ∧ (fields.map Prod.fst).Nodup ∧ ∀ f ∈ fields, fieldSetting f ≠ none then
        some ((fields.filterMap fieldSetting).map Prod.fst, (fields.filterMap fieldSetting).any Prod.snd)
      else none := by
  induction fields generalizing seen with
  | nil => simp [settingFields]
  | cons f rest ih =>
    obtain ⟨code, low, high⟩ := f
    rw [List.flatMap_cons]
    show settingFields (code :: low :: high :: rest.flatMap fieldBytes) seen = _
    rw [settingFields]
    by_cases again : code.toNat ∈ seen
    · rw [if_pos (by simpa using again), if_neg]
      exact fun h => h.1 _ List.mem_cons_self again
    · rw [if_neg (by simpa using again), leValue_pair]
      cases setting : settingOf code.toNat (low.toNat + 256 * high.toNat) with
      | none =>
        rw [if_neg]
        exact fun h => h.2.2 _ List.mem_cons_self setting
      | some sv =>
        have carried : fieldSetting (code, low, high) = some sv := setting
        have rest_fits : ((∀ f ∈ (code, low, high) :: rest, f.1.toNat ∉ seen) ∧
              (((code, low, high) :: rest).map Prod.fst).Nodup ∧
              ∀ f ∈ (code, low, high) :: rest, fieldSetting f ≠ none) ↔
            ((∀ f ∈ rest, f.1.toNat ∉ code.toNat :: seen) ∧ (rest.map Prod.fst).Nodup ∧
              ∀ f ∈ rest, fieldSetting f ≠ none) := by
          rw [List.forall_mem_cons, List.forall_mem_cons, List.map_cons, List.nodup_cons]
          constructor
          · rintro ⟨⟨-, apart⟩, ⟨once, nodup⟩, -, all_named⟩
            refine ⟨fun f hf h => ?_, nodup, all_named⟩
            rcases List.mem_cons.1 h with same | h
            · exact once (List.mem_map.2 ⟨f, hf, BitVec.toNat_inj.1 same⟩)
            · exact apart f hf h
          · rintro ⟨apart, nodup, all_named⟩
            refine ⟨⟨again, fun f hf h => apart f hf (List.mem_cons_of_mem _ h)⟩, ⟨fun twice => ?_, nodup⟩,
              by simp [carried], all_named⟩
            obtain ⟨f, hf, same⟩ := List.mem_map.1 twice
            exact apart f hf (by rw [same]; exact List.mem_cons_self)
        rw [ih, if_congr rest_fits rfl rfl]
        obtain ⟨value, limited⟩ := sv
        split_ifs
        · rw [List.filterMap_cons_some carried, List.map_cons, List.any_cons]
        · rfl

theorem settingFields_length : ∀ {body : List Byte} {seen : List Nat} {got : List SettingValue × Bool},
    settingFields body seen = some got → body.length % 3 = 0
  | [], _, _, _ => rfl
  | [_], _, _, h => nomatch h
  | [_, _], _, _, h => nomatch h
  | _ :: _ :: _ :: rest, _, _, h => by
    rw [settingFields] at h
    split at h
    · cases h
    · split at h
      · rename_i carried
        have inner := settingFields_length carried
        rw [List.length_cons, List.length_cons, List.length_cons]
        omega
      · cases h

/-- A body that is not a mask with whole fields (R189). -/
theorem setBodyOf_eq_none {body : List Byte} (h : body.length < 4 ∨ (body.length - 4) % 3 ≠ 0) : setBodyOf body = none := by
  unfold setBodyOf
  split
  · rename_i a b c d rest
    split
    · rename_i fields
      have whole := settingFields_length fields
      simp only [List.length_cons] at h
      omega
    · rfl
  · rfl

theorem setBodyOf_fields (a b c d : Byte) (fields : List (Byte × Byte × Byte)) :
    let mask := a.toNat + 256 * (b.toNat + 256 * (c.toNat + 256 * d.toNat))
    setBodyOf (a :: b :: c :: d :: fields.flatMap fieldBytes) =
      if mask < 2 ^ 20 ∧ (fields.map Prod.fst).Nodup ∧ ∀ f ∈ fields, fieldSetting f ≠ none then
        some ((List.range 20).filter fun n => mask.testBit n, (fields.filterMap fieldSetting).map Prod.fst,
          (fields.filterMap fieldSetting).any Prod.snd)
      else none := by
  intro mask
  have masked : setMask (leValue [a, b, c, d]) =
      if mask < 2 ^ 20 then some ((List.range 20).filter fun n => mask.testBit n) else none := rfl
  simp only [setBodyOf, masked, settingFields_eq, List.not_mem_nil, not_false_eq_true, implies_true, true_and]
  by_cases fits : (fields.map Prod.fst).Nodup ∧ ∀ f ∈ fields, fieldSetting f ≠ none
  · by_cases small : mask < 2 ^ 20
    · rw [if_pos small, if_pos fits, if_pos ⟨small, fits⟩]
    · rw [if_neg small, if_neg (c := mask < 2 ^ 20 ∧ _ ∧ _) fun h => small h.1]
  · rw [if_neg fits, if_neg (c := mask < 2 ^ 20 ∧ _ ∧ _) fun h => fits h.2]
    split
    · rename_i none_there
      cases none_there
    · rfl

/-! ### A SET at one channel (R94, R95, R162) -/

theorem ChanState.loadsAtOnce_iff (st : ChanState) :
    st.loadsAtOnce = true ↔ st = .closed ∨ st = .ready ∨ st = .stopped ∨ st = .ended := by cases st <;> decide

/-- The prepare point of a channel once it has moved past what needs no decoding (R160). -/
def Channel.preparedPoint (ch : Channel) : Option Nat :=
  match ch.prepPoint, ch.expected with
  | some p, some x => some (feedPrepare ch.feed p x)
  | p, _ => p

theorem Channel.prepareFeed_eq (ch : Channel) : ch.prepareFeed = { ch with prepPoint := ch.preparedPoint } := by
  unfold Channel.prepareFeed
  split
  · rename_i prep expected
    simp only [Channel.preparedPoint, prep, expected]
  · rename_i unfed
    have same : ch.preparedPoint = ch.prepPoint := by
      unfold Channel.preparedPoint
      split
      · rename_i prep expected
        exact (unfed _ _ prep expected).elim
      · rfl
    rw [same]

/-- As many channels as before, each with its state, its settings in force and what is staged. -/
structure Works.KeepsSettings (k k' : Works) : Prop where
  chans : k'.chans.length = k.chans.length
  state : ∀ d, (k'.chan d).state = (k.chan d).state
  settings : ∀ d, (k'.chan d).settings = (k.chan d).settings
  staged : ∀ d, (k'.chan d).staged = (k.chan d).staged

theorem Works.KeepsSettings.refl (k : Works) : k.KeepsSettings k := ⟨rfl, fun _ => rfl, fun _ => rfl, fun _ => rfl⟩

theorem Works.KeepsSettings.trans {a b c : Works} (h : a.KeepsSettings b) (h' : b.KeepsSettings c) : a.KeepsSettings c :=
  ⟨h'.chans.trans h.chans, fun d => (h'.state d).trans (h.state d), fun d => (h'.settings d).trans (h.settings d),
    fun d => (h'.staged d).trans (h.staged d)⟩

theorem Works.KeepsSettings.of_chans {k k' : Works} (h : k'.chans = k.chans) : k.KeepsSettings k' := by
  have same := Works.chan_of_chans_eq h
  exact ⟨by rw [h], fun d => by rw [same], fun d => by rw [same], fun d => by rw [same]⟩

theorem Works.keepsSettings_modChan {k : Works} {c : Nat} {f : Channel → Channel}
    (state : (f (k.chan c)).state = (k.chan c).state) (settings : (f (k.chan c)).settings = (k.chan c).settings)
    (staged : (f (k.chan c)).staged = (k.chan c).staged) : k.KeepsSettings (k.modChan c f) := by
  have each : ∀ d, (k.modChan c f).chan d = k.chan d ∨ d = c ∧ (k.modChan c f).chan d = f (k.chan c) := fun d => by
    by_cases same : d = c
    · rcases k.chan_modChan_cases c f with h | h
      · exact .inr ⟨same, by rw [same, h]⟩
      · exact .inl (by rw [same, h])
    · exact .inl (Works.chan_modChan_ne _ _ _ _ same)
  refine ⟨Works.modChan_chans_length k c f, fun d => ?_, fun d => ?_, fun d => ?_⟩ <;>
    rcases each d with h | ⟨rfl, h⟩ <;> rw [h] <;> assumption

theorem Works.keepsSettings_given (k : Works) (entries : Nat) (slots : List Nat) : k.KeepsSettings (k.given entries slots) :=
  .of_chans rfl

theorem Works.keepsSettings_job (k : Works) (job : Option Job) : k.KeepsSettings { k with job := job } := .of_chans rfl

theorem Works.keepsSettings_applySealing (k : Works) (i : Nat) : k.KeepsSettings (k.applySealing i) := by
  refine ⟨(k.applySealing_lengths i).1, fun d => ?_, fun d => ?_, fun d => ?_⟩ <;>
    rcases k.chan_applySealing i d with h | h <;> rw [h]

theorem Works.keepsSettings_freeTail (k : Works) (c : Nat) : k.KeepsSettings (k.freeTail c) := by
  unfold Works.freeTail
  dsimp only
  split
  · exact .refl k
  · rw [Works.giveBack_eq_given]
    exact (Works.keepsSettings_modChan rfl rfl rfl).trans (Works.keepsSettings_given _ _ _)

theorem Channel.setSide_kept (ch : Channel) (side : Side) (b : OutBuf) :
    (ch.setSide side b).state = ch.state ∧ (ch.setSide side b).settings = ch.settings ∧
      (ch.setSide side b).staged = ch.staged := by
  cases side <;> exact ⟨rfl, rfl, rfl⟩

theorem Works.keepsSettings_grantIfIdle (k : Works) : k.KeepsSettings k.grantIfIdle := by
  have encode (k : Works) (c : Nat) : k.KeepsSettings (k.grantEncode c) := by
    unfold Works.grantEncode
    dsimp only
    split
    · exact .refl k
    · exact (Works.keepsSettings_modChan rfl rfl rfl).trans (Works.keepsSettings_job _ _)
  have review (k : Works) (c : Nat) : k.KeepsSettings (k.grantReview c) := by
    unfold Works.grantReview
    dsimp only
    split
    · obtain ⟨state, settings, staged⟩ := (k.chan c).setSide_kept _ _
      exact (Works.keepsSettings_modChan state settings staged).trans (Works.keepsSettings_job _ _)
    · exact .refl k
  have feed (k : Works) (c : Nat) : k.KeepsSettings (k.grantFeed c) := by
    unfold Works.grantFeed
    dsimp only
    split
    · rename_i r side _ _
      obtain ⟨state, settings, staged⟩ := (k.chan c).setSide_kept side (.awaiting r.pos)
      refine Works.KeepsSettings.trans (Works.keepsSettings_modChan ?_ ?_ ?_) (Works.keepsSettings_job _ _) <;>
        rw [Channel.prepareFeed_eq] <;> assumption
    · exact .refl k
  unfold Works.grantIfIdle
  split
  · exact .refl k
  · split
    · rename_i c _
      unfold Works.grantTo
      dsimp only
      have pointed : k.KeepsSettings
          (if (k.chan c).settings.priority = .urgent then k else { k with pointer := (c + 1) % Config.channelCount }) := by
        split
        · exact .refl k
        · exact .of_chans rfl
      split
      · exact pointed.trans (encode _ c)
      · exact pointed.trans (encode _ c)
      · exact pointed.trans (review _ c)
      · exact pointed.trans (feed _ c)
    · exact .refl k

/-- Channel `c` alone takes other settings in force, or other staged ones. -/
structure Works.SetsAt (c : Nat) (settings : Settings) (staged : Staged) (k k' : Works) : Prop where
  chans : k'.chans.length = k.chans.length
  state : ∀ d, (k'.chan d).state = (k.chan d).state
  settings : (k'.chan c).settings = settings
  staged : (k'.chan c).staged = staged
  others : ∀ d, d ≠ c → (k'.chan d).settings = (k.chan d).settings ∧ (k'.chan d).staged = (k.chan d).staged

theorem Works.SetsAt.trans_keeps {c : Nat} {settings : Settings} {staged : Staged} {a b d : Works}
    (h : Works.SetsAt c settings staged a b) (h' : b.KeepsSettings d) : Works.SetsAt c settings staged a d :=
  ⟨h'.chans.trans h.chans, fun e => (h'.state e).trans (h.state e), (h'.settings c).trans h.settings,
    (h'.staged c).trans h.staged,
    fun e he => ⟨(h'.settings e).trans (h.others e he).1, (h'.staged e).trans (h.others e he).2⟩⟩

theorem Works.setsAt_modChan {k : Works} {c : Nat} (exists_ : c < k.chans.length) {f : Channel → Channel}
    (state : (f (k.chan c)).state = (k.chan c).state) :
    Works.SetsAt c (f (k.chan c)).settings (f (k.chan c)).staged k (k.modChan c f) := by
  have self := Works.chan_modChan_self k c f exists_
  refine ⟨Works.modChan_chans_length k c f, fun d => ?_, by rw [self], by rw [self], fun d hd => ?_⟩
  · by_cases same : d = c
    · rw [same, self, state]
    · rw [Works.chan_modChan_ne _ _ _ _ same]
  · rw [Works.chan_modChan_ne _ _ _ _ hd]
    exact ⟨rfl, rfl⟩

/-- One value loaded (R94, R95, R162). -/
theorem Works.loadSetting_sets {k : Works} {c : Nat} (exists_ : c < k.chans.length) (v : SettingValue) :
    Works.SetsAt c ((k.chan c).settings.load v) ((k.chan c).staged.drop v) k (k.loadSetting c v) := by
  have loaded := Works.setsAt_modChan exists_
    (f := fun ch => { ch with settings := ch.settings.load v, staged := ch.staged.drop v }) rfl
  unfold Works.loadSetting
  dsimp only
  split
  · refine loaded.trans_keeps ?_
    unfold Works.sealChan
    split
    · exact Works.keepsSettings_applySealing _ _
    · exact .refl _
  · exact loaded.trans_keeps (Works.keepsSettings_freeTail _ _)
  · refine loaded.trans_keeps (Works.keepsSettings_modChan ?_ ?_ ?_) <;> rw [Channel.prepareFeed_eq]
  · exact loaded

theorem Works.foldl_loadSetting_sets {k : Works} {c : Nat} (exists_ : c < k.chans.length) (values : List SettingValue) :
    Works.SetsAt c (values.foldl Settings.load (k.chan c).settings) (values.foldl Staged.drop (k.chan c).staged) k
      (values.foldl (fun acc v => acc.loadSetting c v) k) := by
  induction values generalizing k with
  | nil => exact ⟨rfl, fun _ => rfl, rfl, rfl, fun _ _ => ⟨rfl, rfl⟩⟩
  | cons v rest ih =>
    have first := Works.loadSetting_sets exists_ v
    have more := ih (k := k.loadSetting c v) (by rwa [first.chans])
    rw [first.settings, first.staged] at more
    exact ⟨more.chans.trans first.chans, fun d => (more.state d).trans (first.state d), more.settings, more.staged,
      fun d hd => ⟨(more.others d hd).1.trans (first.others d hd).1, (more.others d hd).2.trans (first.others d hd).2⟩⟩

/-- A SET at one channel, by its state (R94). -/
theorem Works.setChannel_sets {k : Works} {c : Nat} (exists_ : c < k.chans.length) (values : List SettingValue) :
    Works.SetsAt c
      (if (k.chan c).state.loadsAtOnce then values.foldl Settings.load (k.chan c).settings else (k.chan c).settings)
      (if (k.chan c).state.loadsAtOnce then values.foldl Staged.drop (k.chan c).staged
        else values.foldl Staged.put (k.chan c).staged) k (k.setChannel values c) := by
  unfold Works.setChannel
  split
  · exact Works.foldl_loadSetting_sets exists_ values
  · exact Works.setsAt_modChan exists_ (f := fun ch => { ch with staged := values.foldl Staged.put ch.staged }) rfl

/-- Settings in force and staged after a SET that names channels once each (R92, R94). -/
theorem Works.foldl_setChannel_sets (values : List SettingValue) (named : List Nat) {k : Works} (once : named.Nodup)
    (exist : ∀ c ∈ named, c < k.chans.length) :
    let k' := named.foldl (fun acc c => acc.setChannel values c) k
    k'.chans.length = k.chans.length ∧ ∀ d,
      (k'.chan d).settings =
          (if d ∈ named ∧ (k.chan d).state.loadsAtOnce then values.foldl Settings.load (k.chan d).settings
            else (k.chan d).settings) ∧
        (k'.chan d).staged =
          (if d ∈ named then
            if (k.chan d).state.loadsAtOnce then values.foldl Staged.drop (k.chan d).staged
              else values.foldl Staged.put (k.chan d).staged
            else (k.chan d).staged) := by
  induction named generalizing k with
  | nil => exact ⟨rfl, fun d => ⟨by simp, by simp⟩⟩
  | cons c rest ih =>
    obtain ⟨not_again, once⟩ := List.nodup_cons.1 once
    have first := Works.setChannel_sets (exist c List.mem_cons_self) values
    obtain ⟨chans, each⟩ := ih (k := k.setChannel values c) once fun d hd => by
      rw [first.chans]
      exact exist d (List.mem_cons_of_mem _ hd)
    refine ⟨chans.trans first.chans, fun d => ?_⟩
    obtain ⟨settings, staged⟩ := each d
    rw [List.foldl_cons, settings, staged, first.state d]
    by_cases same : d = c
    · subst same
      simp only [not_again, false_and, if_false, first.settings, first.staged, List.mem_cons_self, true_and, if_true]
    · obtain ⟨settings, staged⟩ := first.others d same
      simp only [settings, staged, List.mem_cons, same, false_or]
      trivial

/-! ### The request -/

theorem setAnswer_of_checks {m : Message} {k : Works} (scan_done : k.startup = .done) (target : targetOf m.target = .device) :
    setAnswer m k =
      match setBodyOf m.body with
      | none => (refuse .badField, k)
      | some (chans, svs, cl) =>
        if setActs chans svs then (⟨okOrClamped cl, []⟩, k.setChannels chans svs) else (⟨.ok, []⟩, k) := by
  rw [setAnswer, deviceChecks_ok scan_done target rfl] <;> rfl

/-- The channels of a SET body are named once each, from among the 20. -/
theorem setBodyOf_named {body : List Byte} {named : List Nat} {values : List SettingValue} {limited : Bool}
    (h : setBodyOf body = some (named, values, limited)) : named.Nodup ∧ ∀ c ∈ named, c < 20 := by
  unfold setBodyOf at h
  split at h
  · split at h
    · rename_i masked _
      simp only [Option.some.injEq, Prod.mk.injEq] at h
      obtain ⟨rfl, -⟩ := h
      unfold setMask at masked
      split at masked
      · cases masked
        exact ⟨(List.nodup_range).filter _, fun c hc => mem_channelNumbers.1 (List.mem_of_mem_filter hc)⟩
      · cases masked
    · cases h
  · cases h

/-- The numeric and the named settings of R93's table. -/
theorem fieldSetting_eq (f : Byte × Byte × Byte) :
    let ranged (f : Nat → SettingValue) (low high v : Nat) : Option (SettingValue × Bool) :=
      some (f (max low (min high v)), decide (v < low ∨ high < v))
    let oneOf (zero one : SettingValue) (v : Nat) : Option (SettingValue × Bool) :=
      if v = 0 then some (zero, false) else if v = 1 then some (one, false) else none
    let v := f.2.1.toNat + 256 * f.2.2.toNat
    fieldSetting f =
      match f.1.toNat with
      | 1 => oneOf (.width .standard) (.width .compact) v
      | 2 => ranged .quiet 0 32767 v
      | 3 => ranged .hangover 0 50 v
      | 4 => ranged .onset 1 3 v
      | 5 => ranged .squeeze 5 250 v
      | 6 => ranged .window 250 30000 v
      | 7 => oneOf (.priority .normal) (.priority .urgent) v
      | 8 => ranged .backspace 0 250 v
      | 9 => ranged .trim 0 250 v
      | 10 => ranged .feedLow 0 500 v
      | 11 => oneOf (.haltOnInstruction false) (.haltOnInstruction true) v
      | _ => none := by
  intro ranged oneOf v
  show settingOf f.1.toNat v = _
  simp (decide := true) only [settingOf, clampedSetting_eq]
  rfl

/-- Settles O18: each channel by `Works.setChannel`, and the body by `setBodyOf_fields`. -/
theorem setLoadsOrStages : Obligations.SetLoadsOrStages := by
  refine ⟨?_, fun s t => ?_, ?_, ?_, fun body => setBodyOf_eq_none⟩
  · intro s m rest named values limited front ⟨of_kind, target, scan_done⟩ body load setOne k
    have loads (c : Nat) : load c = fun k v => k.loadSetting c v := by
      funext k v
      cases v with
      | trim _ =>
        simp only [load, Works.loadSetting, Works.modChan, Channel.prepareFeed_eq, Channel.preparedPoint,
          feedPrepare_eq] <;> rfl
      | _ => rfl
    have sets : setOne = fun k c => k.setChannel values c := by
      funext k c
      simp only [setOne, loads, Works.setChannel, ChanState.loadsAtOnce_iff]
      rfl
    have answer : setAnswer m s.works =
        if setActs named values then (⟨okOrClamped limited, []⟩, s.works.setChannels named values)
        else (⟨.ok, []⟩, s.works) := by
      rw [setAnswer_of_checks scan_done target, body]
    refine ⟨fun idle => ?_, fun some_named some_values => ⟨?_, fun twenty => ?_⟩⟩
    · have not_acting : setActs named values = false := by
        rcases idle with h | h <;> simp [setActs, h]
      rw [exec_reqSet, State.carryOut_works front of_kind, answer, not_acting]
      exact next_answered_congr rfl rfl
    · have acting : setActs named values = true := by simp [setActs, some_named, some_values]
      rw [exec_reqSet, State.carryOut_works front of_kind, answer, acting]
      refine next_answered_congr rfl ?_
      show s.works.setChannels named values = (named.foldl setOne s.works).grantIfIdle
      rw [sets]
      rfl
    · obtain ⟨once, within⟩ := setBodyOf_named body
      obtain ⟨chans, each⟩ := Works.foldl_setChannel_sets values named once fun c hc => by
        rw [twenty]
        exact within c hc
      have works : k = (named.foldl (fun k c => k.setChannel values c) s.works).grantIfIdle := by
        show (named.foldl setOne s.works).grantIfIdle = _
        rw [sets]
      have granted := Works.keepsSettings_grantIfIdle (named.foldl (fun k c => k.setChannel values c) s.works)
      rw [← works] at granted
      refine ⟨granted.chans.trans (chans.trans twenty), fun c _ => ?_⟩
      obtain ⟨settings, staged⟩ := each c
      intro old now
      rw [← granted.settings c] at settings
      rw [← granted.staged c] at staged
      simp only [ChanState.loadsAtOnce_iff] at settings staged
      split
      · rename_i hc
        split
        · rename_i at_once
          exact ⟨settings.trans (if_pos ⟨hc, at_once⟩), staged.trans ((if_pos hc).trans (if_pos at_once))⟩
        · rename_i later
          exact ⟨settings.trans (if_neg fun h => later h.2), staged.trans ((if_pos hc).trans (if_neg later))⟩
      · rename_i hc
        exact ⟨settings.trans (if_neg fun h => hc h.1), staged.trans (if_neg hc)⟩
  · refine ⟨?_, ?_, ?_, ?_, ?_, ?_, ?_, ?_, ?_, ?_, ?_⟩ <;> exact fun _ => ⟨rfl, rfl, rfl⟩
  · intro s m rest front ⟨of_kind, target, scan_done⟩ malformed
    have answer : setAnswer m s.works = (refuse .badField, s.works) := by
      rw [setAnswer_of_checks scan_done target, malformed]
    rw [exec_reqSet, State.carryOut_works front of_kind, answer]
    exact next_answered_congr rfl rfl
  · intro a b c d fields mask ranged oneOf value
    have same : value = fieldSetting := funext fun f => (fieldSetting_eq f).symm
    have bytes := setBodyOf_fields a b c d fields
    rw [← same] at bytes
    exact bytes

end Sys2Proof.Machine

/-! PROOFS. The line port and the line clock monitor (10_line_port_and_clock_monitor.md): syncs, the frame boundary, reference
ticks. -/

namespace Sys2Proof.Machine

theorem exec_sync (rx : List (Option Sample)) (s : State) : exec (.sync rx) s = execSync rx s := rfl
theorem exec_frameBoundary (rx : List (Option Sample)) (s : State) :
    exec (.frameBoundary rx) s = execFrameBoundary rx s := rfl
theorem exec_referenceTick (s : State) : exec .referenceTick s = execReferenceTick s := rfl
theorem exec_syncAbsence (s : State) : exec .syncAbsence s = execSyncAbsence s := rfl
theorem exec_windowEnd (s : State) : exec .windowEnd s = execWindowEnd s := rfl

/-! ### Reference ticks (R172 to R174) -/

theorem execReferenceTick_free {s : State} (free : s.resetAsserted = false) : execReferenceTick s = .next s.tickOnce := by
  simp [execReferenceTick, free]

theorem State.tickOnce_absent {s : State} (h : s.monitor.lock = .absent) :
    s.tickOnce =
      { s with
        monitor := s.monitor.countTick, line := if s.monitor.countTick.ticks = 4 then s.line.lapse else s.line } := by
  have lock : s.monitor.countTick.lock = .absent := h
  unfold State.tickOnce
  dsimp only
  rw [lock]
  dsimp only
  split <;> rfl

theorem State.tickOnce_present {s : State} (h : s.monitor.lock ≠ .absent) :
    s.tickOnce =
      if s.monitor.countTick.ticks = 4 then s.absence s.monitor.countTick else s.windowTick s.monitor.countTick := by
  have lock : s.monitor.countTick.lock ≠ .absent := h
  unfold State.tickOnce
  dsimp only
  split
  · rename_i absent
    exact absurd absent lock
  · rfl

theorem Works.raiseDevice_eq (k : Works) (kind : EventKind) (detail : BitVec 32) :
    k.raiseDevice kind detail =
      if k.startup = .done then { k with events := putEvent ⟨kind, 255, detail, 0⟩ k.events } else k := rfl

/-- A fourth tick without a sync (R172). -/
theorem State.tickOnce_absence {s : State} (present : s.monitor.lock ≠ .absent) (third : s.monitor.ticks = 3) :
    s.tickOnce =
      { s with
        monitor := { s.monitor with ticks := 4, lock := .absent, windowTicks := 0, windowSyncs := 0, good := 0 },
        line := { s.line with frameOpen := false, hdx := List.replicate 32 none },
        works := if s.monitor.lock = .locked ∧ s.works.startup = .done then
            { s.works with events := putEvent ⟨.lineLost, 255, 0, 0⟩ s.works.events }
          else s.works } := by
  have fourth : s.monitor.countTick = { s.monitor with ticks := 4 } := by simp [Monitor.countTick, third]
  have works : (if s.monitor.lock = .locked then s.works.raiseDevice .lineLost 0#32 else s.works) =
      if s.monitor.lock = .locked ∧ s.works.startup = .done then
        { s.works with events := putEvent ⟨.lineLost, 255, 0, 0⟩ s.works.events }
      else s.works := by
    rw [Works.raiseDevice_eq, ← ite_and]
    rfl
  rw [State.tickOnce_present present, fourth, if_pos rfl, State.absence, works]
  rfl

/-- A tick inside its window (R173). -/
theorem State.tickOnce_window {s : State} (present : s.monitor.lock ≠ .absent) (few : s.monitor.ticks < 3) :
    s.tickOnce = s.windowTick { s.monitor with ticks := s.monitor.ticks + 1 } := by
  have counted : s.monitor.countTick = { s.monitor with ticks := s.monitor.ticks + 1 } := by
    simp only [Monitor.countTick, min_eq_left (show s.monitor.ticks + 1 ≤ 4 by omega)]
  rw [State.tickOnce_present present, counted, if_neg (show s.monitor.ticks + 1 ≠ 4 by omega)]

/-- Settles O36: a tick of a present monitor is the fourth without a sync or a tick of its window, which ends it or not. -/
theorem ticksBringAbsenceAndWindowEnds : Obligations.TicksBringAbsenceAndWindowEnds := by
  constructor
  · intro s free within
    refine ⟨fun absent => ?_, fun present third => ?_, fun present few inside => ?_⟩
    · intro ticks
      rw [exec_referenceTick, execReferenceTick_free free, State.tickOnce_absent absent]
      rfl
    · intro t
      have tick : s.tickOnce = t := State.tickOnce_absence present third
      have next : s.monitor.absenceNext = true := by simp [Monitor.absenceNext, present, third]
      refine ⟨by rw [exec_referenceTick, execReferenceTick_free free, tick], ?_⟩
      rw [exec_syncAbsence, execSyncAbsence, free, next, tick]
      rfl
    · rw [exec_referenceTick, execReferenceTick_free free, State.tickOnce_window present few, State.windowTick]
      exact congrArg _ (if_neg (by dsimp only; omega))
  · intro s free present few last m drift good lock raised t
    have tick : s.tickOnce = t := by
      rw [State.tickOnce_window present few, State.windowTick]
      dsimp only
      rw [if_pos (by omega)]
      simp only [Monitor.endWindow, Monitor.isGood, decide_eq_true_eq, Works.windowEvent, Works.raiseDevice_eq, driftDetail]
      rfl
    have next : s.monitor.windowEndNext = true := by simp [Monitor.windowEndNext, present, few, last]
    refine ⟨by rw [exec_referenceTick, execReferenceTick_free free, tick], ?_⟩
    rw [exec_windowEnd, execWindowEnd, free, next, tick]
    rfl

/-! ### Syncs (R163 to R166) -/

theorem Monitor.sync_eq (m : Monitor) :
    m.sync =
      { m with
        ticks := 0, lock := if decide (m.lock = .absent) then .unlocked else m.lock,
        windowTicks := if decide (m.lock = .absent) then 0 else m.windowTicks,
        windowSyncs := if decide (m.lock = .absent) then 0 else min (m.windowSyncs + 1) 65535 } := by
  unfold Monitor.sync
  cases m.lock <;> rfl

theorem Monitor.sync_locked (m : Monitor) : decide (m.sync.lock = .locked) = decide (m.lock = .locked) := by
  unfold Monitor.sync
  cases m.lock <;> simp

/-- What the line frame drives in a timeslot bound to one channel (R166). -/
theorem driven_of_bound {l : Line} (exclusive : l.Exclusive) {k : Works} {c slot : Nat} (inside : c < 20)
    (bound : (l.binding c).tx = some slot) (counter : Nat) :
    driven l k counter slot = (k.chan c).output.bind fun f => f[counter]? := by
  have found : (channelNumbers.find? fun d => decide ((l.binding d).tx = some slot)) = some c := by
    cases got : channelNumbers.find? fun d => decide ((l.binding d).tx = some slot) with
    | none => exact absurd (decide_eq_true bound) (List.find?_eq_none.1 got c (mem_channelNumbers.2 inside))
    | some d =>
      have other : (l.binding d).tx = some slot := by simpa using List.find?_some got
      by_contra differs
      have channel := mem_channelNumbers.1 (List.mem_of_find?_eq_some got)
      exact (exclusive d c slot channel inside fun h => differs (by rw [h])).2 ⟨other, bound⟩
  simp only [driven, found]
  cases (k.chan c).output <;> rfl

theorem driven_of_unbound {l : Line} {slot : Nat} (h : ∀ c, c < 20 → (l.binding c).tx ≠ some slot) (k : Works) (counter : Nat) :
    driven l k counter slot = none := by
  have none_found : (channelNumbers.find? fun d => decide ((l.binding d).tx = some slot)) = none :=
    List.find?_eq_none.2 fun d hd => by simpa using h d (mem_channelNumbers.1 hd)
  simp only [driven, none_found]

/-- The transmit timeslots of the line frame that a sync opens. -/
theorem Line.drive_hdx (l : Line) (k : Works) (counter : Nat) :
    (l.drive k counter).hdx.length = 32 ∧
      (∀ c slot, c < 20 → slot < 32 → l.Exclusive → (l.binding c).tx = some slot →
        (l.drive k counter).hdx[slot]? = some ((k.chan c).output.bind fun f => f[counter]?)) ∧
      ∀ slot, slot < 32 → (∀ c, c < 20 → (l.binding c).tx ≠ some slot) → (l.drive k counter).hdx[slot]? = some none := by
  have reads : ∀ slot, slot < 32 → (l.drive k counter).hdx[slot]? = some (driven l k counter slot) := fun slot h => by
    simp [Line.drive, Config.timeslotCount, h]
  refine ⟨by simp [Line.drive, Config.timeslotCount], fun c slot hc hs exclusive bound => ?_, fun slot hs unbound => ?_⟩
  · rw [reads slot hs, driven_of_bound exclusive hc bound]
  · rw [reads slot hs, driven_of_unbound unbound]

theorem Channel.takeSample_output (ch : Channel) (x : Sample) : (ch.takeSample x).output = ch.output := by
  unfold Channel.takeSample
  split <;> rfl

theorem Works.handSamples_output (k : Works) (l : Line) (rx : List (Option Sample)) (c : Nat) :
    ((k.handSamples l rx).chan c).output = (k.chan c).output := by
  show ((k.chans.mapIdx fun c (ch : Channel) => ch.takeSample (l.handed rx c)).getD c _).output = (k.chans.getD c _).output
  rw [List.getD_eq_getElem?_getD, List.getD_eq_getElem?_getD, List.getElem?_mapIdx]
  cases k.chans[c]? with
  | none => rfl
  | some ch => exact ch.takeSample_output _

/-- Settles O34: `State.syncOnce` with a counter other than 0. -/
theorem syncCountsAndHandsSamples : Obligations.SyncCountsAndHandsSamples := by
  intro s rx free inside counter handed absent
  have count : (s.line.frameCounter + 1) % Config.frameSamples = counter := Nat.mod_eq_of_lt inside
  have not_zero : counter ≠ 0 := Nat.succ_ne_zero _
  have samples : (s.works.handSamples s.line rx) =
      { s.works with
        chans := s.works.chans.mapIdx fun c ch =>
          if ch.state = .recording ∧ ch.captureStarted = true then { ch with filling := ch.filling ++ [handed c] } else ch } := by
    have same : ∀ c, s.line.handed rx c = handed c := fun c => by
      simp only [Line.handed, handed, receivedSample, List.getD_eq_getElem?_getD]
      rfl
    simp only [Works.handSamples, same, Channel.takeSample]
  have line := Line.drive_hdx s.line (s.works.handSamples s.line rx) counter
  simp only [Works.handSamples_output] at line
  refine ⟨?_, s.syncOnce rx, ?_, ?_, ?_⟩
  · rw [exec_frameBoundary, execFrameBoundary, free, if_neg (by decide), 
      if_neg (show s.line.frameCounter + 1 ≠ Config.frameSamples from Nat.ne_of_lt inside)]
  · rw [exec_sync, execSync, free, if_neg (by decide)]
  · simp only [State.syncOnce, count, if_neg not_zero, Monitor.sync_eq, samples]
    rfl
  · simp only [State.syncOnce, count, if_neg not_zero]
    exact line

end Sys2Proof.Machine

/-! PROOFS. The frame boundary (05_channels_motion_and_settings.md R80, R94, R95; 10_line_port_and_clock_monitor.md R164): the
staged settings that load, and what a RECORDING channel decides. -/

namespace Sys2Proof.Machine

theorem OutBuf.afterSending_eq (b : OutBuf) : b.afterSending = b.sent := by cases b <;> rfl

theorem Channel.endSending_eq (ch : Channel) : ch.endSending = { ch with outX := ch.outX.sent, outY := ch.outY.sent } := by
  rw [Channel.endSending, OutBuf.afterSending_eq, OutBuf.afterSending_eq]

theorem Channel.loadStaged_eq (ch : Channel) :
    ch.loadStaged = { ch with settings := ch.loaded, staged := Staged.empty } := rfl

theorem Channel.takePendingMode_eq (ch : Channel) :
    ch.takePendingMode =
      { ch with recMode := if ch.pendingMode = none then ch.recMode else ch.pendingMode, pendingMode := none } := by
  unfold Channel.takePendingMode
  cases pending : ch.pendingMode with
  | none => exact congrArg (fun p => { ch with pendingMode := p }) pending
  | some mode => rfl

/-- Sealing follows where a staged window has loaded for an attached letter (R95). -/
theorem Works.sealIfWindow_eq {k : Works} {c : Nat} {letter : Option Nat} (reads : (k.chan c).letter = letter)
    (window : Option Nat) :
    k.sealIfWindow c window.isSome =
      match (generalizing := false) letter with
      | some i => if window = none then k else k.applySealing i
      | none => k := by
  unfold Works.sealIfWindow Works.sealChan
  rw [reads]
  cases window <;> cases letter <;> rfl

theorem Works.keepsSettings_sealIfWindow (k : Works) (c : Nat) (loaded : Bool) : k.KeepsSettings (k.sealIfWindow c loaded) := by
  unfold Works.sealIfWindow Works.sealChan
  split
  · split
    · exact Works.keepsSettings_applySealing _ _
    · exact .refl k
  · exact .refl k

/-- The boundary of a channel that is neither RECORDING nor REVIEWING (R94). -/
theorem Works.otherBoundary_idle {k : Works} {c : Nat} (not_recording : (k.chan c).state ≠ .recording)
    (not_reviewing : (k.chan c).state ≠ .reviewing) (locked : Bool) :
    k.otherBoundary c locked = (k.loadAtBoundary c).modChan c Channel.endSending := by
  unfold Works.otherBoundary
  split
  · rename_i h
    exact absurd h not_recording
  · rename_i h
    exact absurd h not_reviewing
  · rfl

theorem Works.otherBoundary_recording {k : Works} {c : Nat} (recording : (k.chan c).state = .recording) (locked : Bool) :
    k.otherBoundary c locked = (k.modChan c Channel.endSending).recordingBoundary c locked := by
  rw [Works.otherBoundary, recording]

/-- Staged settings load at a boundary (R94, R95, R162). -/
theorem Works.loadAtBoundary_eq {k : Works} {c : Nat} (exists_ : c < k.chans.length) :
    let ch := k.chan c
    let loaded : Works := { k with chans := k.chans.set c { ch with settings := ch.loaded, staged := Staged.empty } }
    let sealed_ : Works :=
      match ch.letter with
      | some i => if ch.staged.window = none then loaded else loaded.applySealing i
      | none => loaded
    let freed := if ch.staged.backspace = none then sealed_ else sealed_.freeTail c
    k.loadAtBoundary c =
      if ch.staged.trim = none then freed
      else { freed with chans := freed.chans.set c (freed.chan c).prepareFeed } := by
  intro ch loaded sealed_ freed
  have reads : (loaded.chan c).letter = ch.letter := by
    rw [show loaded = k.modChan c Channel.loadStaged from rfl, Works.chan_modChan_self _ _ _ exists_]
    rfl
  have seals : (k.modChan c Channel.loadStaged).sealIfWindow c ch.staged.window.isSome = sealed_ :=
    Works.sealIfWindow_eq reads ch.staged.window
  have frees : (if ch.staged.backspace.isSome then sealed_.freeTail c else sealed_) = freed := by
    simp only [freed]
    cases ch.staged.backspace <;> rfl
  unfold Works.loadAtBoundary
  dsimp only
  rw [show (k.chan c).staged = ch.staged from rfl, seals, frees]
  cases ch.staged.trim <;> rfl

/-- Settles O35: the boundary of the works is `Works.boundary` by definition, and at one channel `Works.loadAtBoundary` and
`Works.recordingLoad` are read step by step. -/
theorem frameBoundaryFollowsTheSamples : Obligations.FrameBoundaryFollowsTheSamples := by
  refine ⟨?_, ?_, ?_⟩
  · intro s rx free wraps handed ended locked first second after absent
    have count : (s.line.frameCounter + 1) % Config.frameSamples = 0 := by rw [wraps]; rfl
    have synced : s.syncOnce rx =
        { s with monitor := s.monitor.sync, works := after, line := s.line.drive after 0 } := by
      have boundary : handed.boundary (decide (s.monitor.sync.lock = .locked)) = after := by
        rw [Monitor.sync_locked]
        rfl
      simp only [State.syncOnce, count, if_true]
      rw [show (s.works.handSamples s.line rx) = handed from rfl, boundary]
    obtain ⟨length, bound, unbound⟩ := Line.drive_hdx s.line after 0
    refine ⟨(s.line.drive after 0).hdx, ?_⟩
    intro t
    have next : s.syncOnce rx = t := by
      rw [synced, Monitor.sync_eq]
      rfl
    refine ⟨?_, ?_, length, bound, unbound⟩
    · rw [exec_frameBoundary, execFrameBoundary, free, if_neg (by decide),
        if_pos (show s.line.frameCounter + 1 = Config.frameSamples by rw [wraps]; rfl), next]
    · rw [exec_sync, execSync, free, if_neg (by decide), next]
  · intro k c locked exists_ recording ch mode loaded sealed_ ready now with_
    have loads : ((k.modChan c Channel.endSending).modChan c fun ch => ch.loadStaged.takePendingMode) = loaded := by
      rw [Works.modChan_modChan]
      show ({ k with chans := k.chans.set c (ch.endSending.loadStaged.takePendingMode) } : Works) = _
      rw [Channel.endSending_eq, Channel.takePendingMode_eq]
      rfl
    have old : (k.modChan c Channel.endSending).chan c = { ch with outX := ch.outX.sent, outY := ch.outY.sent } := by
      rw [Works.chan_modChan_self _ _ _ exists_, Channel.endSending_eq]
    have reads : loaded.chan c =
        { ch with
          outX := ch.outX.sent, outY := ch.outY.sent, settings := ch.loaded, staged := Staged.empty, recMode := mode,
          pendingMode := none } := by
      show (k.chans.set c _).getD c _ = _
      simp [List.getD_eq_getElem?_getD, exists_]
    have seals : loaded.sealIfWindow c ch.staged.window.isSome = sealed_ :=
      Works.sealIfWindow_eq (by rw [reads]) ch.staged.window
    have onset : (sealed_.chan c).settings = ch.loaded := by
      rw [← seals, (Works.keepsSettings_sealIfWindow loaded c _).settings c, reads]
    have recordingLoad : (k.modChan c Channel.endSending).recordingLoad c = ready := by
      unfold Works.recordingLoad
      dsimp only
      rw [loads, old]
      dsimp only
      rw [seals, onset]
    have boundary : k.otherBoundary c locked =
        if now.state ≠ .recording then ready
        else if now.captureStarted then (ready.modChan c fun ch => { ch with filling := [] }).decideFrame c locked now.filling
        else ready.modChan c Channel.startCapture := by
      rw [Works.otherBoundary_recording recording, Works.recordingBoundary, recordingLoad]
    refine ⟨fun stopped => ?_, fun goes started => ?_, fun goes waiting => ?_⟩
    · rw [boundary, if_pos stopped]
    · rw [boundary, if_neg (not_not.2 goes), if_pos started]
      rfl
    · rw [boundary, if_neg (not_not.2 goes), waiting]
      rfl
  · intro k c exists_ ch loaded sealed_ freed now prepared done
    have loads : k.loadAtBoundary c = done := Works.loadAtBoundary_eq exists_
    refine ⟨loads, fun locked not_recording not_reviewing => ?_⟩
    rw [Works.otherBoundary_idle not_recording not_reviewing, loads]
    simp only [Works.modChan, Channel.endSending_eq]

end Sys2Proof.Machine

/-! PROOFS. The scheduler (06_coder.md, R97 to R102, R160): which channels ask, which is chosen, and what a grant does. -/

namespace Sys2Proof.Machine

/-! ### Asking -/

theorem Works.inService_iff (k : Works) (c : Nat) : k.inService c = true ↔ ∃ j, k.job = some j ∧ j.chan = c := by
  simp [Works.inService, Option.any_eq_true]

theorem Channel.emptySide_isSome_iff (ch : Channel) : ch.emptySide.isSome = true ↔ ch.outX = .empty ∨ ch.outY = .empty := by
  unfold Channel.emptySide
  by_cases x : ch.outX = .empty
  · simp [x]
  · by_cases y : ch.outY = .empty <;> simp [x, y]

theorem Channel.emptySide_eq_some {ch : Channel} {side : Side}
    (h : if ch.outX = .empty then side = .x else ch.outY = .empty ∧ side = .y) : ch.emptySide = some side := by
  unfold Channel.emptySide
  split at h
  · rename_i x
    rw [if_pos x, h]
  · rename_i x
    rw [if_neg x, if_pos h.1, h.2]

/-- The entry that a REVIEWING channel asks for (R99). -/
theorem Works.reviewTarget_eq {k : Works} {ch : Channel} {i p q stop : Nat} (letter : ch.letter = some i)
    (play : ch.playPoint = some p) (prep : ch.prepPoint = some q) (stops : ch.stopPoint = some stop) :
    k.reviewTarget ch =
      if ch.emptySide.isSome = true ∧ q < stop ∧ q ≤ p + 1 then
        ((k.letter i).entryAt q).filter fun e => e.slot.isSome
      else none := by
  unfold Works.reviewTarget
  rw [letter, play, prep, stops]
  cases ch.emptySide with
  | none => simp
  | some side =>
    simp only [Option.isSome_some, true_and]
    split
    · cases (k.letter i).entryAt q with
      | none => rfl
      | some e => simp [Option.filter]
    · rfl

/-- The record that a PLAYING or STARVED channel asks for (R160). -/
theorem Channel.feedTarget_eq {ch : Channel} {p q x : Nat} (play : ch.playPoint = some p) (prep : ch.prepPoint = some q)
    (expected : ch.expected = some x) :
    ch.feedTarget =
      if ch.emptySide.isSome = true then
        (recordAt ch.feed q).filter fun r =>
          decide (q < x ∧ r.isSpeech = true ∧ outputsBefore ch.feed ch.settings.trim p r.pos ≤ 1)
      else none := by
  unfold Channel.feedTarget
  rw [play, prep, expected]
  cases ch.emptySide with
  | none => rfl
  | some side =>
    cases found : recordAt ch.feed q with
    | none => simp [found]
    | some r => simp [Option.filter, found]

theorem FeedRec.isSpeech_iff (r : FeedRec) : r.isSpeech = true ↔ ∃ slot, r.body = .speech slot := by
  unfold FeedRec.isSpeech FeedRec.slot
  cases r.body <;> simp

/-- Where the positions that a record outputs end (R150, R160). -/
theorem FeedRec.playedStop_eq (trim : Nat) (r : FeedRec) :
    r.playedStop trim =
      r.pos + match r.body with
        | .pause n => if trim = 0 then n else min n trim
        | _ => r.count := by
  unfold FeedRec.playedStop FeedRec.stop
  cases body : r.body with
  | pause n =>
    have count : r.count = n := by simp [FeedRec.count, body]
    rw [count]
    dsimp only
    split <;> omega
  | _ => rfl

section
variable {k : Works} {c : Nat}

theorem Works.asks_of_capture (h : (k.chan c).state = .recording ∨ (k.chan c).state = .draining) :
    k.asks c = (!k.inService c && (k.chan c).asksEncode) := by
  rcases h with h | h <;> simp only [Works.asks, h]

theorem Works.asks_of_review (h : (k.chan c).state = .reviewing) :
    k.asks c = (!k.inService c && (k.reviewTarget (k.chan c)).isSome) := by
  simp only [Works.asks, h]

theorem Works.asks_of_play (h : (k.chan c).state = .playing ∨ (k.chan c).state = .starved) :
    k.asks c = (!k.inService c && (k.chan c).feedTarget.isSome) := by
  rcases h with h | h <;> simp only [Works.asks, h]

theorem Works.asks_of_idle (h : (k.chan c).state = .closed ∨ (k.chan c).state = .ready ∨ (k.chan c).state = .stopped ∨
    (k.chan c).state = .ended) : k.asks c = false := by
  rcases h with h | h | h | h <;> simp only [Works.asks, h, Bool.and_false]

end

/-! ### Grants -/

theorem Works.grantEncode_job {k : Works} {c : Nat} (h : (k.chan c).asksEncode = true) :
    ((k.grantEncode c).job.map Job.chan) = some c ∧ (k.grantEncode c).pointer = k.pointer := by
  obtain ⟨w, hw, waits⟩ := List.any_eq_true.1 h
  unfold Works.grantEncode
  dsimp only
  split
  · rename_i none_waits
    exact absurd waits (List.find?_eq_none.1 none_waits w hw)
  · exact ⟨rfl, rfl⟩

theorem Works.grantReview_job {k : Works} {c : Nat} (h : (k.reviewTarget (k.chan c)).isSome = true) :
    ((k.grantReview c).job.map Job.chan) = some c ∧ (k.grantReview c).pointer = k.pointer := by
  obtain ⟨e, target⟩ := Option.isSome_iff_exists.1 h
  have parts : ∃ side i q stop, (k.chan c).emptySide = some side ∧ (k.chan c).letter = some i ∧
      (k.chan c).prepPoint = some q ∧ (k.chan c).stopPoint = some stop := by
    unfold Works.reviewTarget at target
    split at target
    · rename_i side i p q stop hside hi hp hq hstop
      exact ⟨side, i, q, stop, hside, hi, hq, hstop⟩
    · cases target
  obtain ⟨side, i, q, stop, hside, hi, hq, hstop⟩ := parts
  simp only [Works.grantReview, target, hside, hi, hq, hstop]
  exact ⟨rfl, rfl⟩

theorem Works.grantFeed_job {k : Works} {c : Nat} (h : (k.chan c).feedTarget.isSome = true) :
    ((k.grantFeed c).job.map Job.chan) = some c ∧ (k.grantFeed c).pointer = k.pointer := by
  obtain ⟨r, target⟩ := Option.isSome_iff_exists.1 h
  have side : ∃ side, (k.chan c).emptySide = some side := by
    unfold Channel.feedTarget at target
    split at target
    · rename_i side _ _ _ hside _ _ _
      exact ⟨side, hside⟩
    · cases target
  obtain ⟨side, hside⟩ := side
  simp only [Works.grantFeed, target, hside]
  exact ⟨rfl, rfl⟩

/-- The works with the pointer that a grant leaves (R101). -/
def Works.pointed (k : Works) (c : Nat) : Works :=
  { k with pointer := if (k.chan c).settings.priority = .urgent then k.pointer else (c + 1) % 20 }

theorem Works.grantTo_eq (k : Works) (c : Nat) :
    k.grantTo c =
      match (k.chan c).state with
      | .recording => (k.pointed c).grantEncode c
      | .draining => (k.pointed c).grantEncode c
      | .reviewing => (k.pointed c).grantReview c
      | _ => (k.pointed c).grantFeed c := by
  have points : (if (k.chan c).settings.priority = .urgent then k else { k with pointer := (c + 1) % Config.channelCount }) =
      k.pointed c := by
    unfold Works.pointed
    split <;> rfl
  unfold Works.grantTo
  dsimp only
  rw [points] <;> rfl

/-- A grant to a channel that asks gives it the coder (R100, R101). -/
theorem Works.grantTo_job {k : Works} {c : Nat} (h : k.asks c = true) :
    (k.grantTo c).job.map Job.chan = some c ∧
      (k.grantTo c).pointer = if (k.chan c).settings.priority = .urgent then k.pointer else (c + 1) % 20 := by
  have asks : ∀ p : Bool, k.asks c = (!k.inService c && p) → p = true := fun p hp => by
    rw [hp, Bool.and_eq_true] at h
    exact h.2
  rw [Works.grantTo_eq]
  cases state : (k.chan c).state with
  | recording => exact Works.grantEncode_job (k := k.pointed c) (asks _ (Works.asks_of_capture (.inl state)))
  | draining => exact Works.grantEncode_job (k := k.pointed c) (asks _ (Works.asks_of_capture (.inr state)))
  | reviewing => exact Works.grantReview_job (k := k.pointed c) (asks _ (Works.asks_of_review state))
  | playing => exact Works.grantFeed_job (k := k.pointed c) (asks _ (Works.asks_of_play (.inl state)))
  | starved => exact Works.grantFeed_job (k := k.pointed c) (asks _ (Works.asks_of_play (.inr state)))
  | closed => rw [Works.asks_of_idle (.inl state)] at h; cases h
  | ready => rw [Works.asks_of_idle (.inr (.inl state))] at h; cases h
  | stopped => rw [Works.asks_of_idle (.inr (.inr (.inl state)))] at h; cases h
  | ended => rw [Works.asks_of_idle (.inr (.inr (.inr state)))] at h; cases h

theorem Works.grantIfIdle_busy {k : Works} (h : k.job ≠ none) : k.grantIfIdle = k := by
  unfold Works.grantIfIdle
  split
  · rfl
  · rename_i idle
    exact absurd idle h

theorem Works.grantIfIdle_idle {k : Works} (h : k.job = none) :
    k.grantIfIdle = match k.chosen with
      | some c => k.grantTo c
      | none => k := by
  rw [Works.grantIfIdle, h] <;> rfl

/-- The first of the numbers below a bound that passes a test. -/
theorem find?_range_eq_some {p : Nat → Bool} {n c : Nat} (inside : c < n) (passes : p c = true)
    (first : ∀ d, d < c → p d = false) : (List.range n).find? p = some c := by
  rw [List.find?_range_eq_some]
  exact ⟨passes, List.mem_range.2 inside, fun d hd => by simp [first d hd]⟩

/-- The lowest-numbered URGENT channel that asks is chosen (R101). -/
theorem Works.chosen_urgent {k : Works} {c : Nat} (inside : c < 20) (asks : k.asks c = true)
    (urgent : (k.chan c).settings.priority = .urgent)
    (first : ∀ d, d < c → k.asks d = false ∨ (k.chan d).settings.priority = .normal) : k.chosen = some c := by
  have found : (channelNumbers.find? fun d => k.asks d && decide ((k.chan d).settings.priority = .urgent)) = some c :=
    find?_range_eq_some inside (by simp [asks, urgent]) fun d hd => by
      rcases first d hd with h | h <;> simp [h]
  simp only [Works.chosen, found]

theorem Works.chosen_normal {k : Works} (normal : ∀ d, d < 20 → k.asks d = true → (k.chan d).settings.priority = .normal) :
    k.chosen = (rotation k.pointer).find? k.asks := by
  have none_found : (channelNumbers.find? fun d => k.asks d && decide ((k.chan d).settings.priority = .urgent)) = none :=
    List.find?_eq_none.2 fun d hd h => by
      rw [Bool.and_eq_true, decide_eq_true_eq] at h
      exact nomatch (normal d (mem_channelNumbers.1 hd) h.1).symm.trans h.2
  simp only [Works.chosen, none_found]

/-- Without an urgent asker the first one from the pointer round is chosen (R101). -/
theorem Works.chosen_rotation {k : Works} {i : Nat} (inside : i < 20)
    (normal : ∀ d, d < 20 → k.asks d = true → (k.chan d).settings.priority = .normal)
    (asks : k.asks ((k.pointer + i) % 20) = true) (first : ∀ j, j < i → k.asks ((k.pointer + j) % 20) = false) :
    k.chosen = some ((k.pointer + i) % 20) := by
  have found : ((List.range 20).find? fun j => k.asks ((k.pointer + j) % 20)) = some i := find?_range_eq_some inside asks first
  rw [Works.chosen_normal normal, rotation, List.find?_map]
  show ((List.range 20).find? fun j => k.asks ((k.pointer + j) % 20)).map _ = _
  rw [found]
  rfl

theorem Works.chosen_none {k : Works} (h : ∀ c, c < 20 → k.asks c = false) : k.chosen = none := by
  rw [Works.chosen_normal fun d hd asks => by rw [h d hd] at asks; cases asks]
  refine List.find?_eq_none.2 fun d hd asks => ?_
  obtain ⟨i, -, rfl⟩ := List.mem_map.1 hd
  have idle := h ((k.pointer + i) % Config.channelCount) (Nat.mod_lt _ (by decide))
  rw [idle] at asks
  cases asks

/-! ### What a grant sets (R102) -/

section
variable {k : Works} {c : Nat}

theorem Works.grantEncode_of_oldest {w : WaitFrame} (oldest : ((k.chan c).capture.find? fun v => !v.inService) = some w) :
    k.grantEncode c =
      { k with
        chans := k.chans.set c { k.chan c with capture := serveOldest (k.chan c).capture },
        job := some (.encode c ((k.chan c).letter.getD 0) w.entry w.width (if w.continues then (k.chan c).carry else 0#16)) } := by
  simp only [Works.grantEncode, oldest]
  rfl

theorem Works.grantReview_of_target {e : Entry} {side : Side} {q stop i : Nat}
    (target : k.reviewTarget (k.chan c) = some e) (has_side : (k.chan c).emptySide = some side)
    (prep : (k.chan c).prepPoint = some q) (stops : (k.chan c).stopPoint = some stop) (letter : (k.chan c).letter = some i) :
    k.grantReview c =
      { k with
        chans := k.chans.set c
          { (k.chan c).setSide side (.awaiting q) with prepPoint := some ((k.letter i).prepareFrom (q + 1) stop) },
        job := some (.decode c (.letter i) e.id side (k.chan c).generation) } := by
  simp only [Works.grantReview, target, has_side, prep, stops, letter]
  rfl

theorem Works.grantFeed_of_target {r : FeedRec} {side : Side} (target : (k.chan c).feedTarget = some r)
    (has_side : (k.chan c).emptySide = some side) :
    k.grantFeed c =
      { k with
        chans := k.chans.set c
          ({ (k.chan c).setSide side (.awaiting r.pos) with prepPoint := some (r.pos + 1) } : Channel).prepareFeed,
        job := some (.decode c .feedQueue r.id side (k.chan c).generation) } := by
  simp only [Works.grantFeed, target, has_side]
  rfl

end

/-- Settles O37: asking by the channel's state, the choice by `Works.chosen`, and the grant by the kind of work. -/
theorem grantGoesByPriorityAndRotation : Obligations.GrantGoesByPriorityAndRotation := by
  refine ⟨?_, ?_, ?_⟩
  · intro k c ch served empty
    have free : (!k.inService c) = true ↔ ¬served := by rw [Bool.not_eq_true', ← Bool.not_eq_true, k.inService_iff c]
    refine ⟨fun state => ?_, fun i p q stop state letter play prep stops => ?_, fun p q x state play prep expected => ?_,
      fun state unprepared => ?_, fun state => Works.asks_of_idle state⟩
    · rw [Works.asks_of_capture state, Bool.and_eq_true, free]
      simp only [Channel.asksEncode, List.any_eq_true, Bool.not_eq_true']
      rfl
    · intro l held
      have entry : (∃ e, l.entryAt q = some e ∧ e.slot.isSome = true) ↔ held := l.entryAt_coded q
      rw [Works.asks_of_review state, Bool.and_eq_true, free, Works.reviewTarget_eq letter play prep stops, ← entry]
      have filtered : ((l.entryAt q).filter fun e => e.slot.isSome).isSome = true ↔
          ∃ e, l.entryAt q = some e ∧ e.slot.isSome = true := by
        cases l.entryAt q <;> simp [Option.filter_some]
      have side := (k.chan c).emptySide_isSome_iff
      by_cases conditions : (k.chan c).emptySide.isSome = true ∧ q < stop ∧ q ≤ p + 1
      · rw [if_pos conditions, filtered]
        obtain ⟨has_side, inside, near⟩ := conditions
        exact and_congr_right fun _ => ⟨fun h => ⟨side.1 has_side, inside, near, h⟩, fun h => h.2.2.2⟩
      · rw [if_neg conditions]
        exact and_congr_right fun _ => ⟨fun h => (nomatch h),
          fun ⟨some_empty, inside, near, _⟩ => absurd ⟨side.2 some_empty, inside, near⟩ conditions⟩
    · intro trim output ahead held
      rw [Works.asks_of_play state, Bool.and_eq_true, free, Channel.feedTarget_eq play prep expected]
      have side := (k.chan c).emptySide_isSome_iff
      have counts (r : FeedRec) : outputsBefore ch.feed trim p r.pos = ahead r := by
        simp only [outputsBefore, FeedRec.playedStop_eq]
        rfl
      have filtered : ((recordAt (k.chan c).feed q).filter fun r => decide
            (q < x ∧ r.isSpeech = true ∧ outputsBefore (k.chan c).feed (k.chan c).settings.trim p r.pos ≤ 1)).isSome = true ↔
          q < x ∧ held := by
        constructor
        · intro h
          obtain ⟨r, hr⟩ := Option.isSome_iff_exists.1 h
          obtain ⟨found, passes⟩ := Option.filter_eq_some_iff.1 hr
          obtain ⟨inside, speech, near⟩ := of_decide_eq_true passes
          obtain ⟨slot, body⟩ := r.isSpeech_iff.1 speech
          exact ⟨inside, r, slot, found, body, (counts r).symm.le.trans near⟩
        · rintro ⟨inside, r, slot, found, body, near⟩
          have passes := decide_eq_true (⟨inside, r.isSpeech_iff.2 ⟨slot, body⟩, (counts r).le.trans near⟩ :
            q < x ∧ r.isSpeech = true ∧ outputsBefore (k.chan c).feed (k.chan c).settings.trim p r.pos ≤ 1)
          exact Option.isSome_iff_exists.2 ⟨r, Option.filter_eq_some_iff.2 ⟨found, passes⟩⟩
      by_cases has_side : (k.chan c).emptySide.isSome = true
      · rw [if_pos has_side, filtered]
        exact and_congr_right fun _ => ⟨fun h => ⟨side.1 has_side, h⟩, And.right⟩
      · rw [if_neg has_side]
        exact and_congr_right fun _ => ⟨fun h => (nomatch h), fun h => absurd (side.2 h.1) has_side⟩
    · have no_target : (k.chan c).feedTarget = none := by
        unfold Channel.feedTarget
        split
        · rename_i prep _
          rw [show (k.chan c).prepPoint = none from unprepared] at prep
          cases prep
        · rfl
      rw [Works.asks_of_play state, no_target]
      exact Bool.and_false _
  · intro k _ _
    refine ⟨Works.grantIfIdle_busy, fun idle none_ask => ?_, fun c idle inside asks urgent first => ?_,
      fun i idle inside normal asks first => ?_⟩
    · rw [Works.grantIfIdle_idle idle, Works.chosen_none none_ask]
    · have granted : k.grantIfIdle = k.grantTo c := by
        rw [Works.grantIfIdle_idle idle, Works.chosen_urgent inside asks urgent first]
      obtain ⟨job, pointer⟩ := Works.grantTo_job asks
      exact ⟨by rw [granted, job], by rw [granted, pointer, if_pos urgent], granted⟩
    · have granted : k.grantIfIdle = k.grantTo ((k.pointer + i) % 20) := by
        rw [Works.grantIfIdle_idle idle, Works.chosen_rotation inside normal asks first]
      obtain ⟨job, pointer⟩ := Works.grantTo_job asks
      have not_urgent : (k.chan ((k.pointer + i) % 20)).settings.priority ≠ .urgent := by
        rw [normal _ (Nat.mod_lt _ (by decide)) asks]
        decide
      exact ⟨by rw [granted, job], by rw [granted, pointer, if_neg not_urgent], granted⟩
  · intro k c exists_ ch moved granted
    refine ⟨fun before w after i state capture busy waits letter => ?_, fun side free => ?_⟩
    · obtain ⟨served, oldest⟩ := serveOldest_eq (after := after) busy waits
      rw [← capture] at served oldest
      have grant : k.grantTo c = (k.pointed c).grantEncode c := by
        rw [Works.grantTo_eq]
        rcases state with h | h <;> rw [show (k.chan c).state = _ from h]
      rw [grant, Works.grantEncode_of_oldest (k := k.pointed c) oldest]
      show granted { ch with capture := serveOldest ch.capture } (.encode c (ch.letter.getD 0) _ _ _) = _
      rw [served, letter]
      rfl
    · have has_side : ch.emptySide = some side := Channel.emptySide_eq_some free
      intro awaiting
      have awaits (p : Nat) : ch.setSide side (.awaiting p) = awaiting p := by cases side <;> rfl
      refine ⟨fun i p q stop e slot state letter play prep stops inside near entry coded => ?_,
        fun p q x r slot state play prep expected found speech inside near => ?_⟩
      · have target : k.reviewTarget ch = some e := by
          rw [Works.reviewTarget_eq letter play prep stops, if_pos ⟨by rw [has_side]; rfl, inside, near⟩, entry]
          exact Option.filter_some_pos (by simp [Entry.slot, coded])
        have grant : k.grantTo c = (k.pointed c).grantReview c := by
          rw [Works.grantTo_eq, show (k.chan c).state = _ from state]
        rw [grant, Works.grantReview_of_target (k := k.pointed c) target has_side prep stops letter]
        show granted { ch.setSide side (.awaiting q) with prepPoint := _ } _ = _
        rw [awaits]
        rfl
      · intro next
        have target : ch.feedTarget = some r := by
          rw [Channel.feedTarget_eq play prep expected, if_pos (by rw [has_side]; rfl), found]
          exact Option.filter_some_pos (decide_eq_true ⟨inside, r.isSpeech_iff.2 ⟨slot, speech⟩, near⟩)
        have grant : k.grantTo c = (k.pointed c).grantFeed c := by
          rw [Works.grantTo_eq]
          rcases state with h | h <;> rw [show (k.chan c).state = _ from h]
        have prepared : ({ awaiting r.pos with prepPoint := some (r.pos + 1) } : Channel).prepareFeed =
            { awaiting r.pos with prepPoint := some next } := by
          have still : (awaiting r.pos).expected = some x ∧ (awaiting r.pos).feed = ch.feed := by
            cases side <;> exact ⟨expected, rfl⟩
          refine (Channel.prepareFeed_of_expected (ch := { awaiting r.pos with prepPoint := some (r.pos + 1) }) still.1).trans ?_
          simp only [Option.map_some, still.2, feedPrepare_eq]
          rfl
        rw [grant, Works.grantFeed_of_target (k := k.pointed c) target has_side]
        show granted ({ ch.setSide side (.awaiting r.pos) with prepPoint := some (r.pos + 1) } : Channel).prepareFeed _ = _
        rw [awaits, prepared]
        rfl

end Sys2Proof.Machine

/-! PROOFS. The completions of coder jobs (06_coder.md, R104 to R109), and retirement at run time (R119, R120). -/

namespace Sys2Proof.Machine

theorem exec_encodeCompletion (s : State) : exec .encodeCompletion s = execEncodeCompletion s := rfl
theorem exec_decodeCompletion (errs : List CellError) (s : State) :
    exec (.decodeCompletion errs) s = execDecodeCompletion errs s := rfl

/-! ### ENCODE (R104 to R106) -/

/-- Free slots that fall compare with the slot mark (R128). -/
theorem Works.slotsTaken_lowered (k : Works) :
    k.slotsTaken =
      { k with
        slotArmed := k.slotArmed && !(k.slotArmed && decide (k.freePool.length < k.slotMark)),
        events :=
          if (k.slotArmed && decide (k.freePool.length < k.slotMark)) = true ∧ k.startup = .done then
            putEvent ⟨.slotsLow, 255, 0, 0⟩ k.events
          else k.events } := by
  unfold Works.slotsTaken
  split
  · rename_i low
    rw [Works.raiseDevice_eq, low]
    by_cases done : k.startup = .done <;> simp [done]
  · rename_i high
    rw [Bool.not_eq_true] at high
    simp [high]

/-- A DRAINING channel without a waiting frame enters READY (R83, R106). -/
theorem Works.drainCheck_drained {k : Works} {c : Nat} (i : Nat) (draining : (k.chan c).state = .draining)
    (empty : (k.chan c).capture = []) :
    k.drainCheck c i =
      { k with
        chans := k.chans.set c { k.chan c with state := .ready },
        events :=
          if k.startup = .done then putEvent ⟨.drained, c, BitVec.ofNat 32 (k.letter i).cursor, 0⟩ k.events
          else k.events } := by
  unfold Works.drainCheck
  dsimp only
  rw [if_pos ⟨draining, by rw [empty]; rfl⟩, Works.raise_eq]
  split
  · rename_i done
    simp only [if_pos (show k.startup = .done from done)]
    rfl
  · rename_i starting
    simp only [if_neg (show ¬k.startup = .done from starting)]
    rfl

theorem Works.drainCheck_other {k : Works} {c : Nat} (i : Nat)
    (h : (k.chan c).state ≠ .draining ∨ (k.chan c).capture ≠ []) : k.drainCheck c i = k := by
  unfold Works.drainCheck
  dsimp only
  rw [if_neg]
  rintro ⟨draining, empty⟩
  rcases h with h | h
  · exact h draining
  · exact h (List.isEmpty_iff.1 empty)

/-- An ENCODE completion that takes a slot (R104). -/
theorem Works.encodeDone_coded {k : Works} {slot : Nat} {pool : List Nat} (c i entry : Nat) (carry : Sample)
    (free : k.freePool = slot :: pool) :
    let low := k.slotArmed && decide (pool.length < k.slotMark)
    let coded : Works :=
      { k with
        freePool := pool, job := none,
        chans := k.chans.set c
          { k.chan c with carry := carry, capture := (k.chan c).capture.filter fun v => !v.inService },
        letters := k.letters.set i { k.letter i with edit := setBody entry (.speech (some slot)) (k.letter i).edit },
        slotArmed := k.slotArmed && !low,
        events := if low ∧ k.startup = .done then putEvent ⟨.slotsLow, 255, 0, 0⟩ k.events else k.events }
    k.encodeDone c i entry carry = (((coded.applySealing i).drainCheck c i).grantIfIdle, some slot) := by
  intro low coded
  unfold Works.encodeDone Works.codeEntry
  rw [free]
  dsimp only
  rw [Works.slotsTaken_lowered]
  rfl

/-- An ENCODE completion without a free slot (R105). -/
theorem Works.encodeDone_lost {k : Works} (c i entry : Nat) (carry : Sample) (free : k.freePool = []) :
    let lost : Works :=
      { k with
        job := none,
        chans := k.chans.set c
          { k.chan c with carry := carry, capture := (k.chan c).capture.filter fun v => !v.inService },
        letters := k.letters.set i { k.letter i with edit := setBody entry (.run .lost 1) (k.letter i).edit },
        events := if k.startup = .done then putEvent ⟨.poolEmpty, c, 0, 0⟩ k.events else k.events }
    k.encodeDone c i entry carry = (((lost.applySealing i).drainCheck c i).grantIfIdle, none) := by
  intro lost
  have raised (k : Works) : k.raiseCount .poolEmpty c =
      { k with events := if k.startup = .done then putEvent ⟨.poolEmpty, c, 0, 0⟩ k.events else k.events } := by
    unfold Works.raiseCount Works.raiseWith
    split <;> rfl
  unfold Works.encodeDone Works.codeEntry
  rw [free]
  dsimp only
  rw [raised]
  rfl

/-- Settles O38: a completion by what the free pool holds, and the end of DRAINING. -/
theorem encodeCompletionCodesTheEntry : Obligations.EncodeCompletionCodesTheEntry := by
  constructor
  · intro s c i entry width base w job served ch l carry chans letters
    have completes : exec .encodeCompletion s = .next (s.encoded c i entry width base w.samples) := by
      have frame : (s.works.chan c).servedFrame = some w := served
      simp only [exec_encodeCompletion, execEncodeCompletion, job, frame]
    refine ⟨fun slot pool free => ?_, fun free => ?_⟩
    · intro low coded
      rw [completes, State.encoded, Works.encodeDone_coded c i entry _ free]
      rfl
    · intro lost
      rw [completes, State.encoded, Works.encodeDone_lost c i entry _ free]
      rfl
  · exact fun k c i => ⟨Works.drainCheck_drained i, Works.drainCheck_other i⟩

/-! ### DECODE (R107 to R109) -/

theorem Channel.fillSide_x {ch : Channel} {p : Nat} (h : ch.outX = .awaiting p) (f : Frame) :
    ch.fillSide .x f = { ch with outX := .filled p f } := by
  simp only [Channel.fillSide, Channel.getSide, h, Channel.setSide]

theorem Channel.fillSide_y {ch : Channel} {p : Nat} (h : ch.outY = .awaiting p) (f : Frame) :
    ch.fillSide .y f = { ch with outY := .filled p f } := by
  simp only [Channel.fillSide, Channel.getSide, h, Channel.setSide]

/-- A buffer that awaits no position stays. -/
theorem Channel.fillSide_other {ch : Channel} {side : Side} (h : ∀ p, ch.getSide side ≠ .awaiting p) (f : Frame) :
    ch.fillSide side f = ch := by
  unfold Channel.fillSide
  split
  · rename_i p awaits
    exact absurd awaits (h p)
  · rfl

/-- Settles O39: a completion by its generation, its entry's slot and the read of that slot. -/
theorem decodeCompletionFillsItsBuffer : Obligations.DecodeCompletionFillsItsBuffer := by
  refine ⟨?_, ?_, ?_⟩
  · intro s errs c source entry side generation job idle filled
    refine ⟨fun stale => ?_, fun slot current holds => ⟨fun bytes read => ?_, fun read => ?_, fun f read => ?_⟩,
      fun current holds => ?_⟩
    · rw [exec_decodeCompletion, execDecodeCompletion, job]
      exact if_pos stale
    · simp only [exec_decodeCompletion, execDecodeCompletion, job, if_neg (not_not.2 current), holds, read]
      rfl
    · simp only [exec_decodeCompletion, execDecodeCompletion, job, if_neg (not_not.2 current), holds, read]
      rfl
    · simp only [exec_decodeCompletion, execDecodeCompletion, job, if_neg (not_not.2 current), holds, read]
    · simp only [exec_decodeCompletion, execDecodeCompletion, job, if_neg (not_not.2 current), holds]
      rfl
  · exact fun ch f => ⟨fun p h => Channel.fillSide_x h f, fun p h => Channel.fillSide_y h f,
      fun h => Channel.fillSide_other (side := .x) h f, fun h => Channel.fillSide_other (side := .y) h f⟩
  · exact fun k c i entry => ⟨rfl, rfl⟩

/-! ### Retirement (R119, R120) -/

theorem Works.retire_listed {k : Works} (room : k.defects.length < 64) (slot : Nat) (source : DefectSource) :
    k.retire slot source = { k with defects := k.defects ++ [⟨slot, source⟩] } := if_pos room

theorem Works.retire_counted {k : Works} (full : 64 ≤ k.defects.length) (slot : Nat) (source : DefectSource) :
    k.retire slot source = { k with unlisted := k.unlisted + 1, defectOverflow := true } := if_neg (Nat.not_lt.2 full)

/-- Settles O40: the two branches of `Works.retire`, and the event. -/
theorem retirementListsOrCounts : Obligations.RetirementListsOrCounts := by
  intro k slot scan_done events
  refine ⟨fun room => ?_, fun full => ?_⟩
  · rw [Works.retireAtRun, Works.retire_listed room, Works.raiseDevice_eq]
    exact if_pos scan_done
  · rw [Works.retireAtRun, Works.retire_counted full, Works.raiseDevice_eq]
    exact if_pos scan_done

end Sys2Proof.Machine

/-! PROOFS. The pause detector and the items of a recording (02_pause_squeezing.md R18 to R29; R40, R45, R47, R110). -/

namespace Sys2Proof.Machine

/-! ### The detector (R18 to R29) -/

theorem framePeak_eq (f : Frame) : framePeak f = (f.map fun x => x.toInt.natAbs).foldl max 0 := by
  rw [framePeak, List.foldl_map]

theorem isQuiet_eq (threshold : Nat) (f : Frame) :
    isQuiet threshold f = decide ((f.map fun x => x.toInt.natAbs).foldl max 0 < threshold) := by
  rw [isQuiet, framePeak_eq]

section
variable {k : Works} {c : Nat} (f : Frame)

theorem Works.decideFrame_speech (h : (k.chan c).det.phase = .speech) : k.decideFrame c true f = k.frameInSpeech c f := by
  simp only [Works.decideFrame, h, if_true]

theorem Works.decideFrame_pause (h : (k.chan c).det.phase = .pause) : k.decideFrame c true f = k.frameInPause c f := by
  simp only [Works.decideFrame, h, if_true]

end

/-- Settles O41: one branch of the detector on its phase, the frame and the counts. -/
theorem detectorDecidesEveryFrame : Obligations.DetectorDecidesEveryFrame := by
  refine ⟨?_, fun k c f => rfl, fun k c => rfl⟩
  intro k c f ch quiet withDet
  have heard : isQuiet ch.settings.quiet f = quiet := isQuiet_eq _ _
  refine ⟨fun speech loud => ?_, fun speech silent more => ?_, fun speech silent used => ?_, fun pause silent => ?_,
    fun pause loud more => ?_, fun pause loud complete => ?_⟩
  · rw [Works.decideFrame_speech f speech]
    unfold Works.frameInSpeech
    exact if_neg (by rw [heard, loud]; decide)
  · rw [Works.decideFrame_speech f speech]
    unfold Works.frameInSpeech
    exact (if_pos (heard.trans silent)).trans (if_pos more)
  · rw [Works.decideFrame_speech f speech]
    unfold Works.frameInSpeech
    exact (if_pos (heard.trans silent)).trans (if_neg (Nat.not_lt.2 used))
  · rw [Works.decideFrame_pause f pause]
    unfold Works.frameInPause
    exact if_pos (heard.trans silent)
  · rw [Works.decideFrame_pause f pause]
    unfold Works.frameInPause
    exact (if_neg (by rw [heard, loud]; decide)).trans (if_pos more)
  · rw [Works.decideFrame_pause f pause]
    unfold Works.frameInPause
    exact (if_neg (by rw [heard, loud]; decide)).trans (if_neg (Nat.not_lt.2 complete))

/-! ### Placing (R40, R45, R47) -/

section
variable {k : Works} {i : Nat} {mode : RecMode} {body : EntryBody}

/-- The plan of a new entry at the write point. -/
def Works.planOf (k : Works) (i : Nat) (mode : RecMode) (body : EntryBody) : Plan :=
  planEntry mode (k.letter i) (k.letter i).cursor ⟨k.nextEntry, body⟩ (k.nextEntry + 1)

theorem Works.placeEntry_over (longer : (k.planOf i mode body).longer = true) (full : 16777215 ≤ (k.letter i).length) :
    k.placeEntry i mode body = .overLimit := by
  unfold Works.placeEntry
  exact if_pos (Bool.and_eq_true_iff.2 ⟨longer, decide_eq_true full⟩)

theorem not_over {longer : Bool} {length : Nat} (h : longer = false ∨ length < 16777215) :
    ¬(longer && decide (Config.maxLength ≤ length)) = true := by
  rw [Bool.and_eq_true, decide_eq_true_eq]
  rintro ⟨grows, full⟩
  rcases h with h | h
  · rw [h] at grows
    cases grows
  · exact absurd full (Nat.not_le.2 h)

theorem Works.placeEntry_short (fits : (k.planOf i mode body).longer = false ∨ (k.letter i).length < 16777215)
    (few : k.freeEntries < (k.planOf i mode body).need) : k.placeEntry i mode body = .short := by
  unfold Works.placeEntry
  exact (if_neg (not_over fits)).trans (if_pos few)

theorem Works.placeEntry_fits (fits : (k.planOf i mode body).longer = false ∨ (k.letter i).length < 16777215)
    (enough : (k.planOf i mode body).need ≤ k.freeEntries) :
    k.placeEntry i mode body =
      .placed ((k.modLetter i fun l => l.withPlan mode (k.planOf i mode body)).afterPlan (k.planOf i mode body)) k.nextEntry
        (k.planOf i mode body).longer := by
  unfold Works.placeEntry
  exact (if_neg (not_over fits)).trans (if_neg (Nat.not_lt.2 enough))

end

/-- A placement sets its channel, whatever that channel was. -/
theorem Works.placedAs_modChan (k : Works) (c i : Nat) (mode : RecMode) (p : Plan) (ch : Channel) (f : Channel → Channel) :
    (k.modChan c f).placedAs c i mode p ch = k.placedAs c i mode p ch := by
  unfold Works.placedAs Works.modChan
  simp only [List.set_set]
  rfl

theorem Works.letter_placedAs {k : Works} {c i : Nat} (exists_ : i < k.letters.length) (mode : RecMode) (p : Plan)
    (ch : Channel) :
    ((k.placedAs c i mode p ch).letter i).length = if p.longer then (k.letter i).length + 1 else (k.letter i).length := by
  show ((k.letters.set i _).getD i _).length = _
  simp [List.getD_eq_getElem?_getD, exists_]

theorem Works.chan_placedAs {k : Works} {c : Nat} (exists_ : c < k.chans.length) (i : Nat) (mode : RecMode) (p : Plan)
    (ch : Channel) : (k.placedAs c i mode p ch).chan c = ch := by
  show (k.chans.set c ch).getD c _ = _
  simp [List.getD_eq_getElem?_getD, exists_]

/-- After a placement below the length limit sealing follows, and no more (R40). -/
theorem Works.afterPlacement_below {k : Works} {c i : Nat} {grew : Bool}
    (h : grew = false ∨ (k.letter i).length ≠ 16777215) : k.afterPlacement c i grew = k.applySealing i := by
  have not_full : ¬(grew && decide ((k.letter i).length = Config.maxLength)) = true := by
    rw [Bool.and_eq_true, decide_eq_true_eq]
    rintro ⟨grows, full⟩
    rcases h with h | h
    · rw [h] at grows
      cases grows
    · exact h full
  simp only [Works.afterPlacement, if_neg not_full]

/-- One that brings the length to the limit raises LETTER_FULL and stops (R47). -/
theorem Works.afterPlacement_full {k : Works} {c i : Nat} (full : (k.letter i).length = 16777215) :
    k.afterPlacement c i true = (k.letterFull c i).applySealing i := by
  have at_limit : (true && decide ((k.letter i).length = Config.maxLength)) = true := by
    rw [Bool.true_and, decide_eq_true_eq]
    exact full
  simp only [Works.afterPlacement, if_pos at_limit]

/-- A placement that brings the length to its limit: the span is ended in the channel placed (R47, R82). -/
theorem Works.letterFull_placedAs {k : Works} {c i : Nat} (scan_done : k.startup = .done) (exists_ : c < k.chans.length)
    (letter_exists : i < k.letters.length) (mode : RecMode) (p : Plan) (ch : Channel) :
    let placed := k.placedAs c i mode p ch.spanEnded
    (k.placedAs c i mode p ch).letterFull c i =
      { placed with
        letters := placed.letters.set i ((placed.letter i).squeezedBy ch.det.hold.length),
        events := putEvent ⟨.letterFull, c, BitVec.ofNat 32 i, 0⟩ placed.events } := by
  intro placed
  rw [Works.letterFull_eq (k := k.placedAs c i mode p ch) scan_done (by simpa [Works.placedAs] using letter_exists),
    Works.chan_placedAs exists_]
  simp only [Works.placedAs, placed, List.set_set]
  rfl

/-! ### Speech frames (R13, R45, R110) -/

theorem Works.decideSpeech_item {k : Works} {c i : Nat} {mode : RecMode} (f : Frame) (letter : (k.chan c).letter = some i)
    (recording : (k.chan c).recMode = some mode) (room : (k.chan c).capture.length < 2) :
    k.decideSpeech c f = k.speechItem c i mode f := by
  simp only [Works.decideSpeech, letter, recording, if_neg (Nat.not_le.2 room)]

/-- The works with the growing run of channel `c` ended, as a speech item starts. -/
def Works.growthEnded (k : Works) (c : Nat) : Works := k.modDet c fun d => { d with growing := none }

theorem Works.speechItem_eq {k : Works} {c i : Nat} {mode : RecMode} (f : Frame) :
    k.speechItem c i mode f =
      match (k.growthEnded c).placeEntry i mode (.speech none) with
      | .overLimit => ((k.growthEnded c).countDropped c).letterFull c i
      | .short => ((k.growthEnded c).countDropped c).raiseCount .poolEmpty c
      | .placed placed id grew => (placed.modChan c fun ch => ch.keepFrame f id).afterPlacement c i grew := rfl

theorem Works.raiseCount_done {k : Works} (scan_done : k.startup = .done) (kind : EventKind) (c : Nat) :
    k.raiseCount kind c = { k with events := putEvent ⟨kind, c, 0, 0⟩ k.events } := if_pos scan_done

theorem sat16_eq (n : Nat) : sat16 n = min (n + 1) 65535 := rfl

/-- Settles O42: the placement of the frame's entry by what the plan says, and the frames that are not placed. -/
theorem speechFrameIsKeptOrDropped : Obligations.SpeechFrameIsKeptOrDropped := by
  constructor
  · intro k c i mode f scan_done exists_ letter_exists letter recording ch l plan kept dropped full
    have reads : (k.growthEnded c).chan c = { ch with det := { ch.det with growing := none } } :=
      Works.chan_modChan_self _ _ _ exists_
    have planned : (k.growthEnded c).planOf i mode (.speech none) = plan := rfl
    have keeps : ((k.growthEnded c).chan c).keepFrame f k.nextEntry = kept := by
      rw [reads]
      rfl
    have drops : (k.growthEnded c).countDropped c = { k with chans := k.chans.set c dropped } := by
      unfold Works.countDropped Works.growthEnded Works.modDet
      rw [Works.modChan_modChan]
      rfl
    have places : (((k.growthEnded c).modLetter i fun l => l.withPlan mode plan).afterPlan plan).modChan c
        (fun ch => ch.keepFrame f k.nextEntry) = k.placedAs c i mode plan kept :=
      (Works.afterPlan_eq_placedAs keeps).trans (Works.placedAs_modChan k c i mode plan kept _)
    have item : ch.capture.length < 2 → k.decideSpeech c f = k.speechItem c i mode f :=
      Works.decideSpeech_item f letter recording
    refine ⟨fun room below enough => ?_, fun room longer last enough => ?_, fun room longer beyond => ?_,
      fun room below few => ?_, fun busy => ?_⟩
    · have fits : plan.longer = false ∨ l.length < 16777215 := below.imp_right fun h => by omega
      rw [item room, Works.speechItem_eq, Works.placeEntry_fits (k := k.growthEnded c) fits enough]
      dsimp only
      rw [planned, show (k.growthEnded c).nextEntry = k.nextEntry from rfl, places, Works.afterPlacement_below]
      rw [Works.letter_placedAs letter_exists]
      rcases below with h | h
      · exact .inl h
      · refine .inr ?_
        show (if plan.longer then l.length + 1 else l.length) ≠ 16777215
        split <;> omega
    · intro placed
      rw [item room, Works.speechItem_eq, Works.placeEntry_fits (k := k.growthEnded c) (.inr (by show l.length < _; omega)) enough]
      dsimp only
      rw [planned, show (k.growthEnded c).nextEntry = k.nextEntry from rfl, places, longer, Works.afterPlacement_full,
        Works.letterFull_placedAs scan_done exists_ letter_exists]
      rw [Works.letter_placedAs letter_exists, longer]
      exact last
    · rw [item room, Works.speechItem_eq, Works.placeEntry_over (k := k.growthEnded c) longer beyond]
      dsimp only
      have set : ({ k with chans := k.chans.set c dropped } : Works).chan c = dropped := by
        show (k.chans.set c _).getD c _ = _
        simp [List.getD_eq_getElem?_getD, exists_]
      rw [drops, Works.letterFull_eq]
      · rw [set, List.set_set]
        rfl
      · exact scan_done
      · exact letter_exists
    · rw [item room, Works.speechItem_eq, Works.placeEntry_short (k := k.growthEnded c) below few]
      dsimp only
      rw [drops, Works.raiseCount_done]
      exact scan_done
    · have at_overrun : k.decideSpeech c f = k.overrunFrame c := by
        simp only [Works.decideSpeech, letter, recording]
        exact if_pos busy
      rw [at_overrun, Works.overrunFrame, Works.raiseCount_done]
      · rfl
      · exact scan_done
  · intro k c i f letter recording ch
    simp only [Works.decideSpeech, letter, recording]
    rfl

end Sys2Proof.Machine

/-! PROOFS. Pause items and LOST items (02_pause_squeezing.md, R25 to R28; R45, R47): growth, squeezing, new runs. -/

namespace Sys2Proof.Machine

/-- The growing run of a letter, found by its number (R25). -/
theorem Letter.growingRun_some {l : Letter} {id n : Nat} {kind : RunKind}
    (found : (l.edit.find? fun e => decide (e.id = id)) = some ⟨id, .run kind n⟩) :
    l.growingRun (some id) = some (kind, n) := by
  simp only [Letter.growingRun, found]

theorem Letter.growingRun_eq_some {l : Letter} {id n : Nat} {kind : RunKind} (h : l.growingRun (some id) = some (kind, n)) :
    ∃ other, (l.edit.find? fun e => decide (e.id = id)) = some ⟨other, .run kind n⟩ := by
  unfold Letter.growingRun at h
  dsimp only at h
  split at h
  · rename_i other kind' n' found
    cases h
    exact ⟨other, found⟩
  · cases h

theorem Letter.markAt_eq_false {l : Letter} {p : Nat} (h : ∀ m ∈ l.marks, m.pos ≠ p) : l.markAt p = false := by
  rw [Letter.markAt, List.any_eq_false]
  exact fun m hm => by simpa using h m hm

/-- A letter that has grown at its write point (R42, R44, R66). -/
theorem Letter.withGrowth_eq (l : Letter) (mode : RecMode) (g : Growth) :
    l.withGrowth mode g =
      { l with
        edit := g.edit, cursor := l.cursor + 1, length := if g.longer then l.length + 1 else l.length,
        marks :=
          match mode with
          | .insert => l.marks.map fun m => if l.cursor < m.pos then { m with pos := m.pos + 1 } else m
          | .overwrite => l.marks } := by
  cases mode <;> rfl

section
variable {k : Works} {c i : Nat} {mode : RecMode} {kind : RunKind}

/-- The works in which an item that is not speech is decided: the next frame does not continue (R13). -/
def Works.notContinued (k : Works) (c : Nat) : Works := k.modDet c fun d => { d with prevKept := false }

theorem Works.decideRun_item (letter : (k.chan c).letter = some i) (recording : (k.chan c).recMode = some mode) :
    k.decideRun c kind = (k.notContinued c).runItem c i mode kind := by
  simp only [Works.decideRun, letter, recording]
  rfl

theorem Works.runItem_squeezed {id n : Nat} (growing : (k.chan c).det.growing = some id)
    (run : (k.letter i).growingRun (some id) = some (kind, n)) (unmarked : (k.letter i).markAt (k.letter i).cursor = false)
    (at_count : (k.chan c).settings.squeeze ≤ n) : k.runItem c i mode kind = k.countSqueezed i := by
  simp only [Works.runItem, growing, run, unmarked, decide_true, Bool.not_false, Bool.and_true, if_true,
    if_neg (Nat.not_lt.2 at_count)]

theorem Works.runItem_grows {id n : Nat} (growing : (k.chan c).det.growing = some id)
    (run : (k.letter i).growingRun (some id) = some (kind, n)) (unmarked : (k.letter i).markAt (k.letter i).cursor = false)
    (below : n < (k.chan c).settings.squeeze) : k.runItem c i mode kind = k.growRun c i mode id := by
  simp only [Works.runItem, growing, run, unmarked, decide_true, Bool.not_false, Bool.and_true, if_true, if_pos below]

/-- Without a growing run of its kind beside it, or with a mark at the write point, an item is a new run (R25). -/
theorem Works.runItem_new
    (h : ∀ id e n, (k.chan c).det.growing = some id → ((k.letter i).edit.find? fun e => decide (e.id = id)) = some e →
      e.body = .run kind n → ∃ m ∈ (k.letter i).marks, m.pos = (k.letter i).cursor) :
    k.runItem c i mode kind = k.newRun c i mode kind := by
  unfold Works.runItem
  dsimp only
  split
  · rename_i id held n growing run
    have stands : (decide (held = kind) && !(k.letter i).markAt (k.letter i).cursor) = false := by
      by_contra beside
      rw [Bool.not_eq_false, Bool.and_eq_true, decide_eq_true_eq, Bool.not_eq_true'] at beside
      obtain ⟨same, unmarked⟩ := beside
      obtain ⟨other, found⟩ := Letter.growingRun_eq_some (growing ▸ run)
      obtain ⟨m, hm, at_point⟩ := h id _ n growing found (by rw [same])
      have at_mark : (k.letter i).markAt (k.letter i).cursor = true :=
        List.any_eq_true.2 ⟨m, hm, decide_eq_true at_point⟩
      rw [at_mark] at unmarked
      cases unmarked
    rw [if_neg (by rw [stands]; decide)]
  · rfl

/-- A growth step that would bring the length beyond its limit (R47). -/
theorem Works.growRun_over {id : Nat}
    (longer : (planGrowth mode (k.letter i) (k.letter i).cursor id).longer = true) (full : 16777215 ≤ (k.letter i).length) :
    k.growRun c i mode id = (k.countSqueezed i).letterFull c i := by
  unfold Works.growRun
  exact if_pos (Bool.and_eq_true_iff.2 ⟨longer, decide_eq_true full⟩)

/-- A growth step (R42, R44). -/
theorem Works.growRun_fits {id : Nat}
    (fits : (planGrowth mode (k.letter i) (k.letter i).cursor id).longer = false ∨ (k.letter i).length < 16777215) :
    let g := planGrowth mode (k.letter i) (k.letter i).cursor id
    k.growRun c i mode id =
      ((k.modLetter i fun l => l.withGrowth mode g).given g.returned g.freed).afterPlacement c i g.longer := by
  intro g
  unfold Works.growRun
  rw [← Works.giveBack_eq_given]
  exact if_neg (not_over fits)

end

theorem Works.chan_notContinued {k : Works} {c : Nat} (exists_ : c < k.chans.length) :
    (k.notContinued c).chan c = { k.chan c with det := { (k.chan c).det with prevKept := false } } :=
  Works.chan_modChan_self _ _ _ exists_

/-- Frames and items counted at the length limit, as LETTER_FULL stops the span (R26, R47). -/
theorem Works.countSqueezed_letterFull {k : Works} {c i : Nat} (scan_done : k.startup = .done) (exists_ : c < k.chans.length)
    (letter_exists : i < k.letters.length) (ch : Channel) :
    (({ k with chans := k.chans.set c ch } : Works).countSqueezed i).letterFull c i =
      { k with
        letters := k.letters.set i
          (({ k.letter i with squeezed := min ((k.letter i).squeezed + 1) 65535 } : Letter).squeezedBy ch.det.hold.length),
        chans := k.chans.set c ch.spanEnded, events := putEvent ⟨.letterFull, c, BitVec.ofNat 32 i, 0⟩ k.events } := by
  have counted : ({ k with chans := k.chans.set c ch } : Works).countSqueezed i =
      { k with
        chans := k.chans.set c ch,
        letters := k.letters.set i { k.letter i with squeezed := min ((k.letter i).squeezed + 1) 65535 } } := rfl
  have channel : (({ k with chans := k.chans.set c ch } : Works).countSqueezed i).chan c = ch := by
    show (k.chans.set c ch).getD c _ = ch
    simp [List.getD_eq_getElem?_getD, exists_]
  have letter : (({ k with chans := k.chans.set c ch } : Works).countSqueezed i).letter i =
      { k.letter i with squeezed := min ((k.letter i).squeezed + 1) 65535 } := by
    rw [counted]
    show (k.letters.set i _).getD i _ = _
    rw [List.getD_eq_getElem?_getD, List.getElem?_set_self letter_exists]
    rfl
  rw [Works.letterFull_eq, channel, letter, counted]
  · simp only [List.set_set]
  · exact scan_done
  · simpa [counted] using letter_exists

/-- The growing run that a new one takes the place of is ended first. -/
theorem Works.newRun_eq {k : Works} {c i : Nat} {mode : RecMode} {kind : RunKind} :
    k.newRun c i mode kind =
      match (k.growthEnded c).placeEntry i mode (.run kind 1) with
      | .overLimit => ((k.growthEnded c).countSqueezed i).letterFull c i
      | .short => ((k.growthEnded c).countDropped c).raiseCount .poolEmpty c
      | .placed placed id grew => (placed.modDet c fun d => { d with growing := some id }).afterPlacement c i grew := rfl

/-- Settles O43: an item grows the run beside it, is squeezed out, or is placed as a new run. -/
theorem runsGrowToTheSqueezeCount : Obligations.RunsGrowToTheSqueezeCount := by
  refine ⟨?_, ?_, ?_⟩
  · intro k c i id n mode kind exists_ letter_exists letter recording growing ch l found unmarked chans
    have reads := Works.chan_notContinued exists_
    have run : l.growingRun (some id) = some (kind, n) := Letter.growingRun_some found
    have free := Letter.markAt_eq_false unmarked
    refine ⟨fun at_count => ?_, fun below => ?_⟩
    · rw [Works.decideRun_item letter recording,
        Works.runItem_squeezed (k := k.notContinued c) (by rw [reads]; exact growing) run free (by rw [reads]; exact at_count)]
      rfl
    · intro g shifted grown taken back full
      have item : k.decideRun c kind = (k.notContinued c).growRun c i mode id := by
        rw [Works.decideRun_item letter recording,
          Works.runItem_grows (k := k.notContinued c) (by rw [reads]; exact growing) run free (by rw [reads]; exact below)]
      have grows : (k.notContinued c).modLetter i (fun l => l.withGrowth mode g) = taken := by
        simp only [Letter.withGrowth_eq]
        rfl
      have length : (back.letter i).length = if g.longer then l.length + 1 else l.length := by
        show ((k.letters.set i grown).getD i _).length = _
        rw [List.getD_eq_getElem?_getD, List.getElem?_set_self letter_exists]
        rfl
      have channel : back.chan c = { ch with det := { ch.det with prevKept := false } } := reads
      have fitting (fits : g.longer = false ∨ l.length < 16777215) :
          k.decideRun c kind = back.afterPlacement c i g.longer := by
        rw [item, Works.growRun_fits (k := k.notContinued c) fits]
        show (((k.notContinued c).modLetter i fun l => l.withGrowth mode g).given g.returned g.freed).afterPlacement c i g.longer = _
        rw [grows]
      refine ⟨fun short => ?_, fun longer last scan_done => ?_, fun longer beyond scan_done => ?_⟩
      · rw [fitting (short.imp_right fun h => by omega), Works.afterPlacement_below]
        rw [length]
        refine short.imp_right fun h => ?_
        split <;> omega
      · rw [fitting (.inr (by omega)), longer, Works.afterPlacement_full (by rw [length, longer]; exact last),
          Works.letterFull_eq]
        · rw [channel]
        · exact scan_done
        · simpa [back, taken, Works.given] using letter_exists
      · rw [item, Works.growRun_over (k := k.notContinued c) longer beyond]
        exact Works.countSqueezed_letterFull scan_done exists_ letter_exists
          { ch with det := { ch.det with prevKept := false } }
  · intro k c i mode kind scan_done exists_ letter_exists letter recording ch l apart plan grows full
    have reads := Works.chan_notContinued exists_
    have item : k.decideRun c kind = (k.notContinued c).newRun c i mode kind := by
      rw [Works.decideRun_item letter recording]
      exact Works.runItem_new fun id e n growing found run => apart id e n (by rw [reads] at growing; exact growing) found run
    have ends : (k.notContinued c).growthEnded c = { k with chans := k.chans.set c (grows none) } := by
      unfold Works.notContinued Works.growthEnded Works.modDet
      rw [Works.modChan_modChan]
      rfl
    have ended_reads : ((k.notContinued c).growthEnded c).chan c = grows none := by
      rw [ends]
      show (k.chans.set c _).getD c _ = _
      simp [List.getD_eq_getElem?_getD, exists_]
    have planned : ((k.notContinued c).growthEnded c).planOf i mode (.run kind 1) = plan := rfl
    have places : (((((k.notContinued c).growthEnded c).modLetter i fun l => l.withPlan mode plan).afterPlan plan).modDet c
        fun d => { d with growing := some k.nextEntry }) = k.placedAs c i mode plan (grows (some k.nextEntry)) := by
      refine (Works.afterPlan_eq_placedAs (ch := grows (some k.nextEntry)) ?_).trans ?_
      · rw [ended_reads]
      · exact (Works.placedAs_modChan _ c i mode plan _ _).trans (Works.placedAs_modChan k c i mode plan _ _)
    have placing (fits : plan.longer = false ∨ l.length < 16777215) (enough : plan.need ≤ k.freeEntries) :
        k.decideRun c kind = (k.placedAs c i mode plan (grows (some k.nextEntry))).afterPlacement c i plan.longer := by
      rw [item, Works.newRun_eq, Works.placeEntry_fits (k := (k.notContinued c).growthEnded c) fits enough]
      dsimp only
      rw [planned, show ((k.notContinued c).growthEnded c).nextEntry = k.nextEntry from rfl, places]
    refine ⟨fun short enough => ?_, fun longer last enough => ?_, fun longer beyond => ?_, fun fits few => ?_⟩
    · rw [placing (short.imp_right fun h => by omega) enough, Works.afterPlacement_below]
      rw [Works.letter_placedAs letter_exists]
      refine short.imp_right fun h => ?_
      show (if plan.longer then l.length + 1 else l.length) ≠ 16777215
      split <;> omega
    · intro placed
      rw [placing (.inr (by omega)) enough, longer, Works.afterPlacement_full,
        Works.letterFull_placedAs scan_done exists_ letter_exists]
      · rfl
      · rw [Works.letter_placedAs letter_exists, longer]
        exact last
    · rw [item, Works.newRun_eq, Works.placeEntry_over (k := (k.notContinued c).growthEnded c) longer beyond]
      dsimp only
      rw [ends]
      exact Works.countSqueezed_letterFull scan_done exists_ letter_exists (grows none)
    · rw [item, Works.newRun_eq, Works.placeEntry_short (k := (k.notContinued c).growthEnded c) fits few]
      dsimp only
      rw [Works.countDropped, Works.modChan, ended_reads, ends, Works.raiseCount_done]
      · simp only [List.set_set]
        rfl
      · exact scan_done
  · intro k c i kind letter recording l
    simp only [Works.decideRun, letter, recording]
    rfl

end Sys2Proof.Machine

/-! PROOFS. Reviews at a frame boundary (05_channels_motion_and_settings.md R73, R89; 06_capture_and_playback.md R91). -/

namespace Sys2Proof.Machine

/-! ### Output buffers at a play point (R89) -/

theorem Channel.filledSide_x {ch : Channel} {p : Nat} {f : Frame} (h : ch.outX = .filled p f) :
    ch.filledSide p = some (.x, f) := by
  simp [Channel.filledSide, h]

theorem Channel.filledSide_y {ch : Channel} {p : Nat} {f : Frame} (x_free : ∀ g, ch.outX ≠ .filled p g)
    (h : ch.outY = .filled p f) : ch.filledSide p = some (.y, f) := by
  unfold Channel.filledSide
  cases x : ch.outX with
  | filled q g =>
    have other : q ≠ p := fun same => x_free g (by rw [x, same])
    simp [h, other]
  | _ => simp [h]

theorem Channel.filledSide_none {ch : Channel} {p : Nat} (x_free : ∀ f, ch.outX ≠ .filled p f)
    (y_free : ∀ f, ch.outY ≠ .filled p f) : ch.filledSide p = none := by
  have y_other : ∀ r g, ch.outY = .filled r g → r ≠ p := fun r g y same => y_free g (by rw [y, same])
  unfold Channel.filledSide
  cases x : ch.outX with
  | filled q g =>
    have other : q ≠ p := fun same => x_free g (by rw [x, same])
    cases y : ch.outY with
    | filled r g' => simp [other, y_other r g' y]
    | _ => simp [other]
  | _ =>
    cases y : ch.outY with
    | filled r g' => simp [y_other r g' y]
    | _ => rfl

/-- Zeros go out without moving on, late once output has begun (R91). -/
theorem Works.stall_eq {k : Works} (scan_done : k.startup = .done) (c : Nat) :
    let ch := k.chan c
    k.stall c =
      { k with
        chans := k.chans.set c
          { ch with output := some zeroFrame, late := if ch.outputBegun then min (ch.late + 1) 65535 else ch.late },
        events := if ch.outputBegun then putEvent ⟨.late, c, 0, 0⟩ k.events else k.events } := by
  intro ch
  unfold Works.stall
  dsimp only
  rw [Works.raiseCount_done (k := k.modChan c _) scan_done]
  show (if ch.outputBegun = true then _ else _) = _
  split <;> rfl

/-! ### What staged settings leave at a boundary (R94) -/

/-- As many channels as before, each in its state with its kind, its letter and the points of its playback. -/
structure Works.KeepsPoints (k k' : Works) : Prop where
  startup : k'.startup = k.startup
  chans : k'.chans.length = k.chans.length
  state : ∀ d, (k'.chan d).state = (k.chan d).state
  letter : ∀ d, (k'.chan d).letter = (k.chan d).letter
  play : ∀ d, (k'.chan d).playPoint = (k.chan d).playPoint
  stop : ∀ d, (k'.chan d).stopPoint = (k.chan d).stopPoint
  expected : ∀ d, (k'.chan d).expected = (k.chan d).expected
  kind : ∀ d, (k'.chan d).kind = (k.chan d).kind

theorem Works.KeepsPoints.refl (k : Works) : k.KeepsPoints k :=
  ⟨rfl, rfl, fun _ => rfl, fun _ => rfl, fun _ => rfl, fun _ => rfl, fun _ => rfl, fun _ => rfl⟩

theorem Works.KeepsPoints.trans {a b c : Works} (h : a.KeepsPoints b) (h' : b.KeepsPoints c) : a.KeepsPoints c where
  startup := h'.startup.trans h.startup
  chans := h'.chans.trans h.chans
  state d := (h'.state d).trans (h.state d)
  letter d := (h'.letter d).trans (h.letter d)
  play d := (h'.play d).trans (h.play d)
  stop d := (h'.stop d).trans (h.stop d)
  expected d := (h'.expected d).trans (h.expected d)
  kind d := (h'.kind d).trans (h.kind d)

/-- A channel in its state with its kind, its letter and the points of its playback. -/
structure Channel.SamePoints (ch ch' : Channel) : Prop where
  state : ch'.state = ch.state
  letter : ch'.letter = ch.letter
  play : ch'.playPoint = ch.playPoint
  stop : ch'.stopPoint = ch.stopPoint
  expected : ch'.expected = ch.expected
  kind : ch'.kind = ch.kind

theorem Works.KeepsPoints.of_each {k k' : Works} (startup : k'.startup = k.startup)
    (chans : k'.chans.length = k.chans.length) (each : ∀ d, (k.chan d).SamePoints (k'.chan d)) : k.KeepsPoints k' :=
  ⟨startup, chans, fun d => (each d).state, fun d => (each d).letter, fun d => (each d).play, fun d => (each d).stop,
    fun d => (each d).expected, fun d => (each d).kind⟩

theorem Works.keepsPoints_modChan {k : Works} {c : Nat} {f : Channel → Channel} (h : (k.chan c).SamePoints (f (k.chan c))) :
    k.KeepsPoints (k.modChan c f) := by
  refine .of_each rfl (Works.modChan_chans_length k c f) fun d => ?_
  by_cases same : d = c
  · rw [same]
    rcases k.chan_modChan_cases c f with e | e <;> rw [e]
    · exact h
    · exact ⟨rfl, rfl, rfl, rfl, rfl, rfl⟩
  · rw [Works.chan_modChan_ne _ _ _ _ same]
    exact ⟨rfl, rfl, rfl, rfl, rfl, rfl⟩

theorem Works.keepsPoints_applySealing (k : Works) (i : Nat) : k.KeepsPoints (k.applySealing i) := by
  refine .of_each (k.applySealing_lengths i).2.2 (k.applySealing_lengths i).1 fun d => ?_
  rcases k.chan_applySealing i d with h | h <;> rw [h] <;> exact ⟨rfl, rfl, rfl, rfl, rfl, rfl⟩

theorem Works.keepsPoints_freeTail (k : Works) (c : Nat) : k.KeepsPoints (k.freeTail c) := by
  unfold Works.freeTail
  dsimp only
  split
  · exact .refl k
  · rename_i p _
    rw [Works.giveBack_eq_given]
    have cut : k.KeepsPoints (k.modChan c _) := Works.keepsPoints_modChan (c := c)
      (f := fun d => { d with feed := d.feed.dropWhile fun r => r.behind (p - (k.chan c).settings.backspace) })
      ⟨rfl, rfl, rfl, rfl, rfl, rfl⟩
    exact cut.trans (.of_each rfl rfl fun _ => ⟨rfl, rfl, rfl, rfl, rfl, rfl⟩)

theorem Works.keepsPoints_loadAtBoundary (k : Works) (c : Nat) : k.KeepsPoints (k.loadAtBoundary c) := by
  have sealing (k : Works) (loaded : Bool) : k.KeepsPoints (k.sealIfWindow c loaded) := by
    unfold Works.sealIfWindow Works.sealChan
    split
    · split
      · exact Works.keepsPoints_applySealing _ _
      · exact .refl k
    · exact .refl k
  have freed (k : Works) (staged : Bool) : k.KeepsPoints (if staged then k.freeTail c else k) := by
    cases staged
    · exact .refl k
    · exact Works.keepsPoints_freeTail k c
  have loaded : k.KeepsPoints (k.modChan c Channel.loadStaged) := Works.keepsPoints_modChan ⟨rfl, rfl, rfl, rfl, rfl, rfl⟩
  unfold Works.loadAtBoundary
  dsimp only
  have before_trim := (loaded.trans (sealing _ (k.chan c).staged.window.isSome)).trans
    (freed _ (k.chan c).staged.backspace.isSome)
  split
  · refine before_trim.trans (Works.keepsPoints_modChan ?_)
    rw [Channel.prepareFeed_eq]
    exact ⟨rfl, rfl, rfl, rfl, rfl, rfl⟩
  · exact before_trim

/-- The work at a review's play point keeps the letters and the stop point (R89). -/
theorem Works.reviewPosition_kept (k : Works) (c i p : Nat) :
    (k.reviewPosition c i p).startup = k.startup ∧
      ((k.reviewPosition c i p).chan c).stopPoint = (k.chan c).stopPoint ∧
      (((k.reviewPosition c i p).chan c).playPoint = (k.chan c).playPoint ∨
        ((k.reviewPosition c i p).chan c).playPoint = some (p + 1)) := by
  have moved : ∀ f : Channel → Channel, (f (k.chan c)).stopPoint = (k.chan c).stopPoint →
      ((f (k.chan c)).playPoint = (k.chan c).playPoint ∨ (f (k.chan c)).playPoint = some (p + 1)) →
      (k.modChan c f).startup = k.startup ∧ ((k.modChan c f).chan c).stopPoint = (k.chan c).stopPoint ∧
        (((k.modChan c f).chan c).playPoint = (k.chan c).playPoint ∨
          ((k.modChan c f).chan c).playPoint = some (p + 1)) := by
    intro f stop play
    rcases k.chan_modChan_cases c f with e | e <;> rw [e]
    · exact ⟨rfl, stop, play⟩
    · exact ⟨rfl, rfl, .inl rfl⟩
  unfold Works.reviewPosition
  split
  · rename_i side f _
    refine moved _ ?_ (.inr rfl)
    cases side <;> rfl
  · split
    · exact moved _ rfl (.inr rfl)
    · unfold Works.stall Works.raiseCount
      dsimp only
      split
      · rw [Works.chan_raiseWith, Works.raiseWith_eq]
        exact moved _ rfl (.inl rfl)
      · exact moved _ rfl (.inl rfl)

theorem Works.reachStop_eq {k : Works} (scan_done : k.startup = .done) (c i stop : Nat) :
    k.reachStop c i stop =
      ({ k with
        letters := k.letters.set i { k.letter i with cursor := stop },
        chans := k.chans.set c
          { k.chan c with
            state := .ready, playPoint := none, prepPoint := none, stopPoint := none, outputBegun := false },
        events := putEvent ⟨.stopReached, c, BitVec.ofNat 32 stop, 0⟩ k.events }).applySealing i := by
  unfold Works.reachStop Works.raise
  dsimp only
  rw [Works.raiseWith_done (k := (k.modLetter i _).modChan c _) scan_done]
  rfl

/-- Settles O44: the position is `Works.reviewPosition` at each kind of buffer and entry; the boundary loads, ends what was
SENDING and compares the play point with the stop point, which none of these changes. -/
theorem reviewSendsRunOrStalls : Obligations.ReviewSendsRunOrStalls := by
  constructor
  · intro k c i p scan_done ch zeros free
    refine ⟨fun f x => ?_, fun f x_free y => ?_, fun id kind n none_filled entry => ?_, fun id held none_filled entry => ?_⟩
    · rw [Works.reviewPosition, Channel.filledSide_x x]
      rfl
    · rw [Works.reviewPosition, Channel.filledSide_y x_free y]
      rfl
    · rw [Works.reviewPosition, Channel.filledSide_none none_filled.1 none_filled.2, entry]
      rfl
    · rw [Works.reviewPosition, Channel.filledSide_none none_filled.1 none_filled.2, entry]
      exact Works.stall_eq scan_done c
  · intro k c i p stop locked scan_done exists_ reviewing letter play at_stop loaded ch sent after now
    have points := k.keepsPoints_loadAtBoundary c
    have sends : loaded.modChan c Channel.endSending = sent := by
      rw [Works.modChan, Channel.endSending_eq]
    have reads : sent.chan c = { ch with outX := ch.outX.sent, outY := ch.outY.sent } := by
      rw [← sends, Works.chan_modChan_self _ _ _ (by rw [points.chans]; exact exists_), Channel.endSending_eq]
    have sent_letter : (sent.chan c).letter = some i := by rw [reads]; exact (points.letter c).trans letter
    have sent_play : (sent.chan c).playPoint = some p := by rw [reads]; exact (points.play c).trans play
    have sent_stop : (sent.chan c).stopPoint = some stop := by rw [reads]; exact (points.stop c).trans at_stop
    obtain ⟨after_startup, after_stop, after_play⟩ := Works.reviewPosition_kept sent c i p
    have after_done : after.startup = .done := after_startup.trans (points.startup.trans scan_done)
    have boundary : k.otherBoundary c locked =
        match now.playPoint, now.stopPoint with
        | some q, some stop => if q = stop then after.reachStop c i stop else after
        | _, _ => after := by
      rw [Works.otherBoundary, reviewing]
      unfold Works.reviewBoundary
      dsimp only
      rw [sends, sent_letter, sent_play] <;> rfl
    have now_stop : now.stopPoint = some stop := after_stop.trans sent_stop
    rw [boundary, now_stop]
    refine ⟨fun before => ?_, fun reached => ?_⟩
    · cases play_now : now.playPoint with
      | none => rfl
      | some q => exact if_neg fun same => before (by rw [play_now, same])
    · rw [reached]
      exact (if_pos rfl).trans (Works.reachStop_eq after_done c i stop)

end Sys2Proof.Machine

/-! PROOFS. Playback at a frame boundary (09_transcription_playback.md R152 to R156): the play point, the marks and the end. -/

namespace Sys2Proof.Machine

/-! ### What stands at a position (R147, R150, R154) -/

theorem FeedRec.holds_iff (r : FeedRec) (p : Nat) : r.holds p = true ↔ r.pos ≤ p ∧ p < r.stop := by simp [FeedRec.holds]

theorem FeedRec.isEnd_iff (r : FeedRec) : r.isEnd = true ↔ r.body = .endOf := by
  unfold FeedRec.isEnd
  cases r.body <;> simp

theorem recordAt_none {q : List FeedRec} {p : Nat} (h : ∀ r ∈ q, ¬(r.pos ≤ p ∧ p < r.stop)) : recordAt q p = none :=
  List.find?_eq_none.2 fun r hr holds => h r hr ((r.holds_iff p).1 holds)

theorem recordAt_split {before after : List FeedRec} {r : FeedRec} {p : Nat}
    (first : ∀ f ∈ before, ¬(f.pos ≤ p ∧ p < f.stop)) (holds : r.pos ≤ p ∧ p < r.stop) :
    recordAt (before ++ r :: after) p = some r := by
  have passed : before.find? (fun f => f.holds p) = none := recordAt_none first
  have here : (r :: after).find? (fun f => f.holds p) = some r := List.find?_cons_of_pos ((r.holds_iff p).2 holds)
  rw [recordAt, List.find?_append, passed, here]
  rfl

theorem Channel.recordAtPlay_iff (ch : Channel) :
    ch.recordAtPlay = true ↔
      ∃ p, ch.playPoint = some p ∧ ∃ r ∈ ch.feed, (r.pos ≤ p ∧ p < r.stop) ∨ (r.stop = r.pos ∧ r.pos = p) := by
  unfold Channel.recordAtPlay
  cases ch.playPoint with
  | none => simp
  | some p =>
    simp only [List.any_eq_true, Bool.or_eq_true, FeedRec.holds_iff, Bool.and_eq_true, decide_eq_true_eq,
      Option.some.injEq, exists_eq_left', FeedRec.stop, Nat.add_eq_left]

theorem Works.playPosition_end {k : Works} {c p : Nat} (h : ∃ r ∈ (k.chan c).feed, r.body = .endOf ∧ r.pos = p) :
    k.playPosition c p = k.reachEnd c p := by
  obtain ⟨r, there, end_, at_⟩ := h
  unfold Works.playPosition
  exact if_pos (List.any_eq_true.2 ⟨r, there, by simp [(r.isEnd_iff).2 end_, at_]⟩)

theorem Works.playPosition_goes {k : Works} {c p : Nat} (h : ∀ r ∈ (k.chan c).feed, ¬(r.isEnd = true ∧ r.pos = p)) :
    k.playPosition c p =
      match (generalizing := false) (k.chan c).filledSide p with
      | some (side, f) => k.modChan c fun ch => ch.sendFilled side f p
      | none =>
        match recordAt (k.chan c).feed p with
        | some r => if r.isSpeech then k.stall c else k.modChan c fun ch => ch.sendZeros p
        | none => k.starve c := by
  have no_end : ((k.chan c).feed.any fun r => r.isEnd && decide (r.pos = p)) = false := by
    simpa using h
  unfold Works.playPosition
  dsimp only
  rw [no_end]
  rfl

theorem Works.reachMarks_none {k : Works} {c p : Nat} (h : armedAt (k.chan c).feed p = []) :
    k.reachMarks c p = (k, false) := by
  unfold Works.reachMarks
  dsimp only
  rw [h]
  rfl

theorem armedAt_nil {q : List FeedRec} {p : Nat} (h : ∀ r ∈ q, ∀ kind label, r.body = .mark kind label true → r.pos ≠ p) :
    armedAt q p = [] := by
  refine List.filterMap_eq_nil_iff.2 fun r hr => ?_
  split
  · rename_i kind label body
    exact if_neg (h r hr kind label body)
  · rfl

/-- Marks reached at a position (R153). -/
theorem Works.reachMarks_some {k : Works} {c p : Nat} {passed : List (MarkKind × BitVec 16)} {kind : MarkKind}
    {label : BitVec 16} (scan_done : k.startup = .done) (h : armedAt (k.chan c).feed p = passed ++ [(kind, label)]) :
    k.reachMarks c p =
      let reached : Works :=
        { k with
          events := putEvent ⟨.markReached, c, BitVec.ofNat 32 p, label⟩ k.events,
          chans := k.chans.set c { k.chan c with feed := disarmAt (k.chan c).feed p } }
      if (k.chan c).settings.haltOnInstruction &&
          (passed ++ [(kind, label)]).any fun m => decide (m.1 = .instructionMark) then
        (reached.modChan c Channel.halt, true)
      else (reached, false) := by
  unfold Works.reachMarks
  dsimp only
  rw [h, List.getLast?_concat]
  dsimp only
  rw [Works.raiseWith_done (k := k.modChan c _) scan_done]
  rfl

/-! ### The channel at its play point -/

/-- The scan is as it was, channel `c` has its expected position, and its play point is the old one or the next. -/
structure Works.GoesOn (c p : Nat) (k k' : Works) : Prop where
  startup : k'.startup = k.startup
  expected : (k'.chan c).expected = (k.chan c).expected
  play : (k'.chan c).playPoint = (k.chan c).playPoint ∨ (k'.chan c).playPoint = some (p + 1)

theorem Works.GoesOn.refl (c p : Nat) (k : Works) : Works.GoesOn c p k k := ⟨rfl, rfl, .inl rfl⟩

theorem Works.GoesOn.trans {c p : Nat} {a b d : Works} (h : Works.GoesOn c p a b) (h' : Works.GoesOn c p b d) :
    Works.GoesOn c p a d :=
  ⟨h'.startup.trans h.startup, h'.expected.trans h.expected, h'.play.elim (fun e => e ▸ h.play) .inr⟩

theorem Works.goesOn_modChan {k : Works} {c p : Nat} {f : Channel → Channel}
    (expected : (f (k.chan c)).expected = (k.chan c).expected)
    (play : (f (k.chan c)).playPoint = (k.chan c).playPoint ∨ (f (k.chan c)).playPoint = some (p + 1)) :
    Works.GoesOn c p k (k.modChan c f) := by
  refine ⟨rfl, ?_, ?_⟩ <;> rcases k.chan_modChan_cases c f with e | e <;> rw [e]
  · exact expected
  · exact play
  · exact .inl rfl

theorem Works.goesOn_raiseWith (k : Works) (c p : Nat) (kind : EventKind) (d : Nat) (detail : BitVec 32)
    (label : BitVec 16) : Works.GoesOn c p k (k.raiseWith kind d detail label) :=
  ⟨by rw [Works.raiseWith_eq], by rw [Works.chan_raiseWith], .inl (by rw [Works.chan_raiseWith])⟩

theorem Works.goesOn_reachMarks (k : Works) (c p q : Nat) : Works.GoesOn c p k (k.reachMarks c q).1 := by
  unfold Works.reachMarks
  dsimp only
  split
  · exact .refl c p k
  · rename_i label _
    have reached := (Works.goesOn_modChan (k := k) (c := c) (p := p)
      (f := fun ch => { ch with feed := disarmAt ch.feed q }) rfl (.inl rfl)).trans
      (Works.goesOn_raiseWith _ c p .markReached c (BitVec.ofNat 32 q) label)
    split
    · exact reached.trans (Works.goesOn_modChan rfl (.inl rfl))
    · exact reached

theorem Works.goesOn_playPosition (k : Works) (c p : Nat) : Works.GoesOn c p k (k.playPosition c p) := by
  unfold Works.playPosition
  dsimp only
  split
  · exact (Works.goesOn_modChan rfl (.inl rfl)).trans (Works.goesOn_raiseWith _ _ _ _ _ _ _)
  · split
    · rename_i side f _
      refine Works.goesOn_modChan ?_ (.inr rfl)
      cases side <;> rfl
    · split
      · split
        · unfold Works.stall Works.raiseCount
          dsimp only
          have zeros := Works.goesOn_modChan (k := k) (c := c) (p := p) (f := fun ch =>
            { ch with output := some zeroFrame, late := if (k.chan c).outputBegun then sat16 ch.late else ch.late })
            rfl (.inl rfl)
          by_cases begun : (k.chan c).outputBegun = true
          · rw [if_pos begun]
            exact zeros.trans (Works.goesOn_raiseWith _ _ _ _ _ _ _)
          · rw [if_neg begun]
            exact zeros
        · exact Works.goesOn_modChan rfl (.inr rfl)
      · exact (Works.goesOn_modChan rfl (.inl rfl)).trans (Works.goesOn_raiseWith _ _ _ _ _ _ _)

theorem Works.starve_eq {k : Works} (scan_done : k.startup = .done) (c : Nat) :
    k.starve c =
      { k with
        chans := k.chans.set c { k.chan c with state := .starved, output := some zeroFrame },
        events := putEvent ⟨.starved, c, BitVec.ofNat 32 ((k.chan c).playPoint.getD 0xFFFFFFFF), 0⟩ k.events } := by
  unfold Works.starve Works.raise
  dsimp only
  rw [Works.raiseWith_done (k := k.modChan c _) scan_done]
  rfl

/-- A position is sent, and a record not yet decoded is waited for (R152). -/
theorem Works.playPosition_sends {k : Works} {c p : Nat} (scan_done : k.startup = .done)
    (no_end : ∀ r ∈ (k.chan c).feed, ¬(r.isEnd = true ∧ r.pos = p)) :
    let ch := k.chan c
    let with_ (d : Channel) : Works := { k with chans := k.chans.set c d }
    (∀ f, ch.outX = .filled p f →
      k.playPosition c p =
        with_ { ch with outX := .sending f, output := some f, playPoint := some (p + 1), outputBegun := true }) ∧
    (∀ f, (∀ g, ch.outX ≠ .filled p g) → ch.outY = .filled p f →
      k.playPosition c p =
        with_ { ch with outY := .sending f, output := some f, playPoint := some (p + 1), outputBegun := true }) ∧
    (∀ r, ch.filledSide p = none → recordAt ch.feed p = some r →
      ((∀ slot, r.body ≠ .speech slot) →
        k.playPosition c p = with_ { ch with output := some zeroFrame, playPoint := some (p + 1), outputBegun := true }) ∧
      ((∃ slot, r.body = .speech slot) →
        k.playPosition c p =
          { with_ { ch with
              output := some zeroFrame, late := if ch.outputBegun then min (ch.late + 1) 65535 else ch.late } with
            events := if ch.outputBegun then putEvent ⟨.late, c, 0, 0⟩ k.events else k.events })) := by
  intro ch with_
  rw [Works.playPosition_goes no_end]
  refine ⟨fun f x => ?_, fun f x_free y => ?_, fun r unfilled there => ⟨fun other => ?_, fun speech => ?_⟩⟩
  · rw [Channel.filledSide_x x]
    rfl
  · rw [Channel.filledSide_y x_free y]
    rfl
  · rw [unfilled]
    dsimp only
    rw [there]
    refine if_neg fun speech => ?_
    obtain ⟨slot, body⟩ := r.isSpeech_iff.1 speech
    exact other slot body
  · rw [unfilled]
    dsimp only
    rw [there]
    exact (if_pos (r.isSpeech_iff.2 speech)).trans (Works.stall_eq scan_done c)

/-! ### The boundary of a transcription channel (R152, R154) -/

/-- A PLAYING channel at a boundary: skipped positions, marks, the position, the retained tail and the feed low mark
(R152). -/
theorem Works.playSteps_eq {k : Works} {c p x : Nat} (scan_done : k.startup = .done) (exists_ : c < k.chans.length)
    (play : (k.chan c).playPoint = some p) (expected : (k.chan c).expected = some x) :
    let q := skipFrom (k.chan c).feed (k.chan c).settings.trim p
    let begun : Works := { k with chans := k.chans.set c { k.chan c with playPoint := some q } }
    let marked := begun.reachMarks c q
    let played := if marked.2 then marked.1 else marked.1.playPosition c q
    let done := played.freeTail c
    let now := done.chan c
    let unplayed := now.expected.getD 0 - now.playPoint.getD 0
    let low := now.endFed = false ∧ now.settings.feedLow ≤ x - p ∧ unplayed < now.settings.feedLow
    k.playSteps c =
      { done with events := if low then putEvent ⟨.feedLow, c, 0, 0⟩ done.events else done.events } := by
  intro q begun marked played done now unplayed low
  have reads : begun.chan c = { k.chan c with playPoint := some q } := by
    show (k.chans.set c _).getD c _ = _
    simp [List.getD_eq_getElem?_getD, exists_]
  have goes : Works.GoesOn c q begun played := by
    have marks := begun.goesOn_reachMarks c q q
    by_cases halted : marked.2 = true
    · exact (show played = marked.1 from if_pos halted) ▸ marks
    · exact (show played = marked.1.playPosition c q from if_neg halted) ▸ marks.trans (marked.1.goesOn_playPosition c q)
  obtain ⟨freed_startup, feed, left⟩ : done.startup = played.startup ∧
    ∃ feed, done.chan c = { played.chan c with feed := feed } := played.freeTail_kept c
  have now_expected : now.expected = some x := by
    rw [show now = _ from left]
    exact goes.expected.trans (by rw [reads]; exact expected)
  obtain ⟨p', now_play⟩ : ∃ p', now.playPoint = some p' := by
    rw [show now = _ from left]
    rcases goes.play with same | next_
    · exact ⟨q, same.trans (by rw [reads])⟩
    · exact ⟨q + 1, next_⟩
  have now_unplayed : (done.chan c).unplayed = some unplayed := by
    show now.unplayed = some (now.expected.getD 0 - now.playPoint.getD 0)
    simp only [Channel.unplayed, now_expected, now_play, Option.getD_some]
  have before : (k.chan c).unplayed = some (x - p) := by simp only [Channel.unplayed, expected, play]
  unfold Works.playSteps
  dsimp only
  rw [play, before]
  exact Works.compareFeedLow_eq (freed_startup.trans (goes.startup.trans scan_done)) now_unplayed

theorem Works.playSteps_absent {k : Works} {c : Nat} (play : (k.chan c).playPoint = none) : k.playSteps c = k.starve c := by
  unfold Works.playSteps
  dsimp only
  rw [play]

/-- The positions left at the front of the queue (R156). -/
theorem Works.freeTail_split {k : Works} {c p : Nat} {freed stay : List FeedRec} (play : (k.chan c).playPoint = some p)
    (split_ : (k.chan c).feed = freed ++ stay)
    (passed : ∀ r ∈ freed, r.behind (p - (k.chan c).settings.backspace) = true)
    (stays : ∀ r rest, stay = r :: rest → ¬r.behind (p - (k.chan c).settings.backspace) = true) :
    k.freeTail c =
      ({ k with chans := k.chans.set c { k.chan c with feed := stay } }.given freed.length
        (freed.filterMap FeedRec.slot)) := by
  have front : (k.chan c).feed.takeWhile (fun r => r.behind (p - (k.chan c).settings.backspace)) = freed ∧
      (k.chan c).feed.dropWhile (fun r => r.behind (p - (k.chan c).settings.backspace)) = stay := by
    rw [split_, List.takeWhile_append_of_pos passed, List.dropWhile_append_of_pos passed]
    cases stay with
    | nil => simp
    | cons r rest => simp [stays r rest rfl]
  unfold Works.freeTail
  dsimp only
  rw [play]
  dsimp only
  rw [front.1, Works.giveBack_eq_given, Works.modChan, front.2, feedSlotsOf, ← play]

end Sys2Proof.Machine

/-! PROOFS. The statement on playback (09_transcription_playback.md R91, R152 to R156) from the rules of each part. -/

namespace Sys2Proof.Machine

/-- Settles O45: positions by `Works.playPosition_sends`, marks by `Works.reachMarks_some`, the boundary by
`Works.playSteps_eq` and the tail by `Works.freeTail_split`. -/
theorem playbackMeetsMarksAndEnds : Obligations.PlaybackMeetsMarksAndEnds := by
  refine ⟨?_, ?_, ?_, ?_⟩
  · intro k c p scan_done exists_ small ch
    refine ⟨fun play none_there unfilled => ?_, fun end_ => ?_, fun passed kind label armed => ?_, fun unarmed => ?_⟩
    · have here : (k.chan c).filledSide p = none := unfilled
      have unheld : recordAt (k.chan c).feed p = none := recordAt_none fun r hr => (none_there r hr).1
      rw [Works.playPosition_goes fun r hr => (none_there r hr).2, here]
      dsimp only
      rw [unheld]
      dsimp only
      have detail : (k.chan c).playPoint.getD 0xFFFFFFFF = p := by
        rw [show (k.chan c).playPoint = some p from play, Option.getD_some]
      rw [Works.starve_eq scan_done, detail]
      rfl
    · rw [Works.playPosition_end end_]
      unfold Works.reachEnd Works.raise
      rw [Works.raiseWith_done (k := k.modChan c _) scan_done]
      rfl
    · intro disarmed halts events
      rw [Works.reachMarks_some scan_done armed]
      dsimp only
      have halting : ((k.chan c).settings.haltOnInstruction &&
          (passed ++ [(kind, label)]).any fun m => decide (m.1 = .instructionMark)) = true ↔ halts := by
        simp only [halts, Bool.and_eq_true, List.any_eq_true, decide_eq_true_eq]
        exact Iff.rfl
      refine ⟨fun h => ?_, fun h => if_neg (mt halting.1 h)⟩
      rw [if_pos (halting.2 h)]
      have reads : (k.chans.set c disarmed).getD c Channel.initial = disarmed := by
        simp [List.getD_eq_getElem?_getD, exists_]
      show (({ k with
          events := events
          chans := (k.chans.set c disarmed).set c ((k.chans.set c disarmed).getD c Channel.initial).halt } : Works), true) = _
      rw [reads, List.set_set]
      rfl
    · exact Works.reachMarks_none (armedAt_nil unarmed)
  · intro k c p scan_done exists_ ch zeros with_ free no_end
    obtain ⟨sends_x, sends_y, others⟩ := Works.playPosition_sends scan_done no_end
    refine ⟨sends_x, sends_y, fun before r after none_filled queue first low high => ?_⟩
    have there : recordAt (k.chan c).feed p = some r := by
      rw [show (k.chan c).feed = _ from queue]
      exact recordAt_split first ⟨low, high⟩
    obtain ⟨run, speech⟩ := others r (Channel.filledSide_none none_filled.1 none_filled.2) there
    exact ⟨run, fun slot body => speech ⟨slot, body⟩⟩
  · intro k c scan_done exists_ before loaded ch sent with_ zeros stands
    have points : k.KeepsPoints loaded := k.keepsPoints_loadAtBoundary c
    have inside : c < loaded.chans.length := by rw [points.chans]; exact exists_
    have loaded_done : loaded.startup = .done := points.startup.trans scan_done
    have sends : loaded.modChan c Channel.endSending = with_ sent := by
      rw [Works.modChan, Channel.endSending_eq]
    have reads (d : Channel) : (with_ d).chan c = d := by
      show (loaded.chans.set c d).getD c _ = d
      simp [List.getD_eq_getElem?_getD, inside]
    have again (d e : Channel) : ({ with_ d with chans := (with_ d).chans.set c e } : Works) = with_ e := by
      simp only [with_, List.set_set]
    have state : sent.state = before.state := points.state c
    have play : sent.playPoint = before.playPoint := points.play c
    have expected : sent.expected = before.expected := points.expected c
    have boundary : k.transcriptionBoundary c =
        match (generalizing := false) before.state with
        | .playing => (with_ sent).playSteps c
        | .starved => (with_ sent).starvedSteps c
        | _ => with_ sent := by
      unfold Works.transcriptionBoundary
      dsimp only
      rw [sends, reads, state] <;> rfl
    have starved_stands : ((with_ sent).chan c).recordAtPlay = true ↔ ∃ p, before.playPoint = some p ∧ stands p := by
      rw [reads, Channel.recordAtPlay_iff, play]
    refine ⟨fun idle => ?_, fun playing absent => ?_, fun starved none_stands => ?_, fun p x goes at_ final => ?_⟩
    · rw [boundary]
      rcases idle with h | h <;> rw [h]
    · rw [boundary, playing]
      dsimp only
      have detail : ((with_ sent).chan c).playPoint.getD 0xFFFFFFFF = 0xFFFFFFFF := by
        rw [reads, play, show before.playPoint = none from absent, Option.getD_none]
      rw [Works.playSteps_absent (by rw [reads, play]; exact absent), Works.starve_eq (k := with_ sent) loaded_done,
        detail, reads]
      exact congrArg (fun k' : Works => { k' with events := putEvent ⟨.starved, c, 0xFFFFFFFF, 0⟩ loaded.events })
        (again sent { sent with state := .starved, output := some zeros })
    · rw [boundary, starved]
      dsimp only
      have left : ¬((with_ sent).chan c).recordAtPlay = true := by
        rw [starved_stands]
        exact fun ⟨p, at_, there⟩ => none_stands p at_ there
      rw [Works.starvedSteps, if_neg left, Works.modChan, reads]
      exact again _ _
    · intro trim holding q begun marked played done now unplayed low
      have moves : q = skipFrom sent.feed sent.settings.trim p := by
        unfold skipFrom
        show (match holding with | some ⟨_, start, .pause n⟩ => _ | _ => _) = _
        rw [show recordAt sent.feed p = holding from rfl]
        cases holding with
        | none => rfl
        | some r =>
          obtain ⟨id, start, body⟩ := r
          cases body <;> rfl
      have steps (d : Channel) (same : d = { sent with state := .playing }) :
          (with_ d).playSteps c =
            { done with events := if low then putEvent ⟨.feedLow, c, 0, 0⟩ done.events else done.events } := by
        have d_play : ((with_ d).chan c).playPoint = some p := by rw [reads, same]; exact play.trans at_
        have d_expected : ((with_ d).chan c).expected = some x := by rw [reads, same]; exact expected.trans final
        have begins : ({ with_ d with chans := (with_ d).chans.set c { (with_ d).chan c with
            playPoint := some (skipFrom ((with_ d).chan c).feed ((with_ d).chan c).settings.trim p) } } : Works) = begun := by
          rw [reads, again, same]
          show with_ { sent with state := .playing, playPoint := some (skipFrom sent.feed sent.settings.trim p) } = begun
          rw [← moves]
        rw [Works.playSteps_eq (k := with_ d) loaded_done (by simpa [with_] using inside) d_play d_expected]
        dsimp only
        rw [begins, show skipFrom ((with_ d).chan c).feed ((with_ d).chan c).settings.trim p = q by rw [reads, same, moves]]
      rw [boundary]
      rcases goes with playing | ⟨starved, there⟩
      · rw [playing]
        refine steps sent ?_
        rw [← show sent.state = .playing from state.trans playing]
      · rw [starved]
        dsimp only
        rw [Works.starvedSteps, if_pos (starved_stands.2 ⟨p, at_, there⟩), Works.modChan, reads, again]
        exact steps _ rfl
  · intro k c p freed stay play ch edge behind queue passed stays
    have behind_iff (r : FeedRec) : r.behind edge = true ↔ behind r := by
      obtain ⟨id, pos, body⟩ := r
      cases body <;> simp [FeedRec.behind, behind]
    exact Works.freeTail_split play queue (fun r hr => (behind_iff r).2 (passed r hr))
      fun r rest same h => stays r rest same ((behind_iff r).1 h)

end Sys2Proof.Machine

/-! PROOFS. The start-up scan (12_start_up_and_restart.md R124 to R127), and the event register (11_control_link_requests_and_events.md
R185 to R187). -/

namespace Sys2Proof.Machine

theorem exec_writingEnd (s : State) : exec .writingEnd s = execWritingEnd s := rfl
theorem exec_checkingEnd (got : ReadBack) (s : State) : exec (.checkingEnd got) s = execCheckingEnd got s := rfl

/-! ### The words of the pattern (R124) -/

/-- Bit `15 - b` of the next word is the bit of the sequence `b` places after the held ones. -/
theorem patternWord_getLsbD (held : Nat) {b : Nat} (small : b < 16) :
    (patternWord held).getLsbD (15 - b) = (patternAfter (15 + b) held).testBit 14 := by
  rw [patternWord, BitVec.getLsbD_ofNat, decide_eq_true (by omega : 15 - b < 16), Bool.true_and]
  by_cases last : b = 15
  · subst last
    have newest : (patternAfter 14 (patternAfter 16 held)).testBit 14 = (patternAfter 16 held).testBit 0 :=
      patternAfter_older (patternAfter 16 held) (n := 14) (c := 0) (Nat.le_refl _)
    have odd : (2 * patternAfter 15 held + patternAfter 16 held % 2) % 2 = patternAfter 16 held % 2 := by omega
    rw [show 15 + 15 = 16 + 14 from rfl, patternAfter_add, newest, Nat.sub_self, Nat.testBit_zero, Nat.testBit_zero, odd]
  · rw [patternAfter_add, show 14 = (14 - b) + b by omega,
      patternAfter_older (patternAfter 15 held) (n := b) (c := 14 - b) (by omega), show 15 - b = (14 - b) + 1 by omega,
      Nat.testBit_succ]
    congr 1
    omega

/-- The sequence is the only one with its start and its recurrence (R124). -/
theorem patternBit_unique {x : Nat → Bool} (zeros : ∀ n, n < 14 → x n = false) (one : x 14 = true)
    (recurs : ∀ n, x (n + 15) = (x n ^^ x (n + 1))) (n : Nat) : x n = patternBit n := by
  induction n using Nat.strong_induction_on with
  | _ n ih =>
    obtain ⟨zeros', one'⟩ := patternBit_start
    rcases Nat.lt_trichotomy n 14 with before | at_ | after
    · rw [zeros n before, zeros' n before]
    · rw [at_, one, one']
    · obtain ⟨m, rfl⟩ : ∃ m, n = m + 15 := ⟨n - 15, by omega⟩
      rw [recurs, patternBit_recurs, ih m (by omega), ih (m + 1) (by omega)]

/-! ### CHECKING (R126, R127) -/

theorem Works.listed_iff (k : Works) (n : Nat) : k.listed n = true ↔ ∃ d ∈ k.defects, d.slot = n := by
  simp [Works.listed]

theorem Works.mem_readBetween (k : Works) (upTo n : Nat) :
    n ∈ k.readBetween upTo ↔ n < 8192 ∧ k.checked ≤ n ∧ n < upTo ∧ ∀ d ∈ k.defects, d.slot ≠ n := by
  have unlisted : k.listed n = false ↔ ∀ d ∈ k.defects, d.slot ≠ n := by simp [Works.listed]
  simp only [Works.readBetween, List.mem_filter, slotNumbers, List.mem_range, Bool.and_eq_true, decide_eq_true_eq,
    Bool.not_eq_true', unlisted, and_assoc]
  exact Iff.rfl

theorem Works.mem_mismatched (k : Works) (st : Store) (errs : List CellError) (upTo n : Nat) :
    n ∈ k.mismatched st errs upTo ↔ k.checked ≤ n ∧ n < upTo ∧ n < 8192 ∧ (∀ d ∈ k.defects, d.slot ≠ n) ∧
      (st.words n).map (readBack errs n) ≠ some (patternWords k.factory n) := by
  rw [Works.mismatched, List.mem_filter, Works.mem_readBetween]
  constructor
  · rintro ⟨⟨inside, low, high, unlisted⟩, differs⟩
    rw [Store.mismatches_eq st errs k.factory inside, decide_eq_true_eq] at differs
    exact ⟨low, high, inside, unlisted, differs⟩
  · rintro ⟨low, high, inside, unlisted, differs⟩
    rw [Store.mismatches_eq st errs k.factory inside]
    exact ⟨⟨inside, low, high, unlisted⟩, decide_eq_true differs⟩

theorem Works.mismatched_pairwise (k : Works) (st : Store) (errs : List CellError) (upTo : Nat) :
    (k.mismatched st errs upTo).Pairwise (· < ·) := (slotNumbers_pairwise.filter _).filter _

/-- CHECKING as far as slot `upTo` (R119, R126). -/
theorem Works.checkTo_eq (k : Works) (st : Store) (errs : List CellError) (upTo : Nat) :
    let bad := k.mismatched st errs upTo
    let room := 64 - k.defects.length
    k.checkTo st errs upTo =
      { k with
        defects := k.defects ++ (bad.take room).map fun n => ⟨n, .scan⟩,
        unlisted := k.unlisted + (bad.length - room),
        defectOverflow := k.defectOverflow || decide (room < bad.length),
        checked := max k.checked upTo, scanBad := k.scanBad ++ bad } := by
  intro bad room
  unfold Works.checkTo
  dsimp only
  rw [Works.retire_foldl]

/-- A slot that the scan has retired just now lies behind the slots left to read. -/
theorem Works.readBetween_checkTo (k : Works) (st : Store) (errs : List CellError) (upTo : Nat) :
    ((k.checkTo st errs upTo).readBetween 8192).isEmpty = true ↔
      ¬∃ n, n < 8192 ∧ k.checked ≤ n ∧ upTo ≤ n ∧ ∀ d ∈ k.defects, d.slot ≠ n := by
  rw [List.isEmpty_iff, List.eq_nil_iff_forall_not_mem, not_exists, Works.checkTo_eq]
  refine forall_congr' fun n => not_congr ?_
  rw [Works.mem_readBetween]
  constructor
  · rintro ⟨inside, checked, -, unlisted⟩
    have bounds := max_le_iff.1 checked
    exact ⟨inside, bounds.1, bounds.2, fun d hd => unlisted d (List.mem_append_left _ hd)⟩
  · rintro ⟨inside, low, high, unlisted⟩
    refine ⟨inside, max_le low high, inside, fun d hd => ?_⟩
    rcases List.mem_append.1 hd with old | new
    · exact unlisted d old
    · obtain ⟨m, bad, rfl⟩ := List.mem_map.1 new
      have behind := (k.mem_mismatched st errs upTo m).1 (List.mem_of_mem_take bad)
      show m ≠ n
      omega

/-- Settles O6: the words of WRITING are those of the store's laws, the sequence is `patternBit`, and CHECKING is
`Works.checkTo_eq` with the end of the scan once `Works.readBetween_checkTo` leaves nothing to read. -/
theorem scanWritesThenRetires : Obligations.ScanWritesThenRetires := by
  refine ⟨?_, ?_, ?_⟩
  · intro s free writing skipped
    refine ⟨s.store.writePattern skipped, ?_, fun n inside left => Store.words_writePattern inside left,
      fun n inside skips => Store.words_writePattern_skipped inside skips⟩
    rw [exec_writingEnd, execWritingEnd, if_pos ((s.scanIn_iff .writing).2 ⟨free, writing⟩)]
  · intro x skipped slot i b zeros one recurs once word bit written
    refine ⟨_, patternWords_get skipped slot word, ?_⟩
    rw [patternWord_getLsbD _ bit, ← patternAfter_add, patternBit_unique zeros one recurs, patternBit,
      patternOrdinal_eq slot once]
    congr 2
    show 672 * written + 16 * i + (15 + b) = 15 + 672 * written + 16 * i + b
    omega
  · intro s upTo errs free checking k
    refine ⟨k.mismatched s.store errs upTo, k.mismatched_pairwise s.store errs upTo,
      fun n => k.mem_mismatched s.store errs upTo n, ?_⟩
    intro room found unread ended
    have checks : k.checkTo s.store errs upTo = found := k.checkTo_eq s.store errs upTo
    have left : (found.readBetween 8192).isEmpty = true ↔ ¬unread := by
      rw [← checks]
      exact k.readBetween_checkTo s.store errs upTo
    have goes : exec (.checkingEnd ⟨upTo, errs⟩) s =
        .next { s with works := if (found.readBetween 8192).isEmpty then found.endScan s.lastCause else found } := by
      rw [exec_checkingEnd, execCheckingEnd, if_pos ((s.scanIn_iff .checking).2 ⟨free, checking⟩), Works.check]
      dsimp only
      rw [checks, show Config.slotCount = 8192 from rfl]
    have good : found.goodSlots =
        (List.range 8192).filter fun n => !found.scanBad.contains n && !found.defects.any fun d => decide (d.slot = n) := by
      rw [Works.goodSlots, slotNumbers, show Config.slotCount = 8192 from rfl]
      simp only [Works.listed]
    refine ⟨fun more => ?_, fun read few => ?_, fun read many => ?_⟩
    · rw [goes, if_neg fun h => left.1 h more]
    · rw [goes, if_pos (left.2 read), Works.endScan, if_pos (show found.retired ≤ Config.maxRetired from few), good,
        Works.raiseDevice_eq, if_pos rfl]
    · rw [goes, if_pos (left.2 read), Works.endScan,
        if_neg (show ¬found.retired ≤ Config.maxRetired from Nat.not_le.2 many)]

/-! ### The event register (R185 to R187) -/

theorem putEvent_mem {e f : Event} {events : List Event} (h : f ∈ putEvent e events) : f = e ∨ f ∈ events := by
  induction events with
  | nil => exact .inl (List.mem_singleton.1 h)
  | cons g rest ih =>
    rw [putEvent] at h
    split at h
    · exact List.mem_cons.1 h
    · split at h
      · exact (List.mem_cons.1 h).imp_right (List.mem_cons_of_mem _)
      · rcases List.mem_cons.1 h with same | later
        · exact .inr (same ▸ List.mem_cons_self)
        · exact (ih later).imp_right (List.mem_cons_of_mem _)

/-- A raised flag is put in its place of the POLL order (R185, R187). -/
theorem putEvent_pairwise (e : Event) {events : List Event} (rising : events.Pairwise fun f g => f.key < g.key) :
    (putEvent e events).Pairwise fun f g => f.key < g.key := by
  induction events with
  | nil => exact List.pairwise_singleton _ _
  | cons g rest ih =>
    obtain ⟨first, rest_rises⟩ := List.pairwise_cons.1 rising
    rw [putEvent]
    split
    · rename_i before
      refine List.pairwise_cons.2 ⟨fun f hf => ?_, rising⟩
      rcases List.mem_cons.1 hf with same | later
      · exact same ▸ before
      · exact before.trans (first f later)
    · split
      · rename_i same
        exact List.pairwise_cons.2 ⟨fun f hf => same ▸ first f hf, rest_rises⟩
      · rename_i not_before other
        refine List.pairwise_cons.2 ⟨fun f hf => ?_, ih rest_rises⟩
        rcases putEvent_mem hf with same | later
        · rw [same]
          omega
        · exact first f later

theorem mem_putEvent_iff {e f : Event} {events : List Event} (rising : events.Pairwise fun f g => f.key < g.key) :
    f ∈ putEvent e events ↔ f = e ∨ (f ∈ events ∧ f.key ≠ e.key) := by
  induction events with
  | nil => simp [putEvent]
  | cons g rest ih =>
    obtain ⟨first, rest_rises⟩ := List.pairwise_cons.1 rising
    rw [putEvent]
    split
    · rename_i before
      have apart : ∀ f ∈ g :: rest, f.key ≠ e.key := fun f hf => by
        rcases List.mem_cons.1 hf with same | later
        · rw [same]
          omega
        · have := first f later
          omega
      rw [List.mem_cons]
      exact or_congr_right ⟨fun h => ⟨h, apart f h⟩, fun h => h.1⟩
    · split
      · rename_i same
        rw [List.mem_cons, List.mem_cons]
        refine or_congr_right ⟨fun h => ⟨.inr h, fun twice => ?_⟩, fun h => h.1.resolve_left fun this => h.2 (this ▸ same.symm)⟩
        have := first f h
        omega
      · rename_i not_before other
        rw [List.mem_cons, List.mem_cons, ih rest_rises]
        constructor
        · rintro (rfl | rfl | ⟨later, differs⟩)
          · exact .inr ⟨.inl rfl, fun same => other same.symm⟩
          · exact .inl rfl
          · exact .inr ⟨.inr later, differs⟩
        · rintro (rfl | ⟨rfl | later, differs⟩)
          · exact .inr (.inl rfl)
          · exact .inl rfl
          · exact .inr (.inr ⟨later, differs⟩)

/-- Settles O53: by induction along the pending flags, which rise in POLL order. -/
theorem raisedFlagsStandInPollOrder : Obligations.RaisedFlagsStandInPollOrder :=
  ⟨fun e _ rising => ⟨putEvent_pairwise e rising, fun _ => mem_putEvent_iff rising⟩, fun s => by
    simp [State.attn, Works.enabled]⟩

end Sys2Proof.Machine

/-! PROOFS. Frame coding (01_frame_coding.md): decoding gives the reconstructions (R7 to R11), and a frame record survives its
bytes (R2, R16, R189). -/

namespace Sys2Proof.Machine

/-! ### Decoding (R7, R11) -/

theorem decodeLoop_closedLoop (w : Width) (e : Nat) (p : Int) (xs : List Int) :
    decodeLoop e p ((closedLoop w e p xs).map Prod.fst) = (closedLoop w e p xs).map Prod.snd := by
  induction xs generalizing p with
  | nil => rfl
  | cons x rest ih =>
    simp only [closedLoop, List.map_cons, decodeLoop, ih]

theorem decodeFrame_encodeFrame (w : Width) (base : Sample) (f : Frame) :
    decodeFrame (encodeFrame w base f) = (encodeSteps w base f).map fun p => BitVec.ofInt 16 p.2 := by
  have loop : decodeLoop (frameExponent w base f) base.toInt ((encodeSteps w base f).map Prod.fst) =
      (encodeSteps w base f).map Prod.snd := decodeLoop_closedLoop _ _ _ _
  show (decodeLoop (frameExponent w base f) base.toInt ((encodeSteps w base f).map Prod.fst)).map _ = _
  rw [loop, List.map_map]
  rfl

theorem encodeSteps_length (w : Width) (base : Sample) (f : Frame) : (encodeSteps w base f).length = f.length := by
  rw [encodeSteps, length_closedLoop, toInts, List.length_map]

/-- Settles O48: the decoder's loop predicts from the reconstructions that the closed loop predicts from. -/
theorem decodingGivesTheReconstructions : Obligations.DecodingGivesTheReconstructions := by
  refine fun w base f => ⟨decodeFrame_encodeFrame w base f, fun some_sample => ?_⟩
  have steps : encodeSteps w base f ≠ [] := fun none_ =>
    some_sample (List.length_eq_zero_iff.1 (by rw [← encodeSteps_length w base f, none_, List.length_nil]))
  have last := List.getLast?_eq_some_getLast steps
  rw [decodeFrame_encodeFrame, List.getLast?_map, last, finalReconstruction, last]
  rfl

/-! ### Little-endian numbers (R189) -/

theorem leValue_leBytes (n v : Nat) : leValue (leBytes n v) = v % 256 ^ n := by
  induction n generalizing v with
  | zero => simp [leBytes, leValue, Nat.mod_one]
  | succ n ih =>
    rw [leBytes, leValue, ih, BitVec.toNat_ofNat, Nat.pow_succ' (n := n), Nat.mod_mul (a := 256)]

/-! ### Codes in bits (R2) -/

theorem codeBits_lt (w : Nat) (c : Int) : codeBits w c < 2 ^ w := BitVec.isLt _

theorem codeOfBits_add (w v m : Nat) : codeOfBits w (v + 2 ^ w * m) = codeOfBits w v := by
  have same : BitVec.ofNat w (v + 2 ^ w * m) = BitVec.ofNat w v := by
    apply BitVec.eq_of_toNat_eq
    rw [BitVec.toNat_ofNat, BitVec.toNat_ofNat, Nat.add_mul_mod_self_left]
  rw [codeOfBits, same, codeOfBits]

theorem codeOfBits_codeBits {w : Nat} {c : Int} (positive : 0 < w) (low : -2 ^ (w - 1) ≤ c) (high : c < 2 ^ (w - 1)) :
    codeOfBits w (codeBits w c) = c := by
  rw [codeOfBits, codeBits, BitVec.ofNat_toNat, BitVec.setWidth_eq]
  exact BitVec.toInt_ofInt_eq_self positive low high

theorem Width.bits_pos (w : Width) : 0 < w.bits := by cases w <;> decide

/-- A code of a width in its bits, with higher codes above it. -/
theorem codeOfBits_width {w : Width} {c : Int} (range : w.qmin ≤ c ∧ c ≤ w.qmax) (m : Nat) :
    codeOfBits w.bits (codeBits w.bits c + 2 ^ w.bits * m) = c := by
  obtain ⟨low, high⟩ := range
  rw [codeOfBits_add]
  cases w
  · exact codeOfBits_codeBits (w := 4) (by decide) low (by have : c ≤ 7 := high; omega)
  · exact codeOfBits_codeBits (w := 3) (by decide) low (by have : c ≤ 3 := high; omega)

/-! ### STANDARD codes, two a byte (R189) -/

theorem unpack_packStandard (n : Nat) {codes : List Int} (size : codes.length = 2 * n)
    (range : ∀ c ∈ codes, Width.standard.qmin ≤ c ∧ c ≤ Width.standard.qmax) :
    (packStandard codes).length = n ∧ unpackStandard (packStandard codes) = codes := by
  induction n generalizing codes with
  | zero =>
    have nothing : codes = [] := List.length_eq_zero_iff.1 size
    rw [nothing]
    exact ⟨rfl, rfl⟩
  | succ n ih =>
    match codes, size with
    | a :: b :: rest, size =>
      obtain ⟨length_, reads⟩ := ih (codes := rest) (by simp only [List.length_cons] at size; omega)
        fun c hc => range c (List.mem_cons_of_mem _ (List.mem_cons_of_mem _ hc))
      have first := codeOfBits_width (range a List.mem_cons_self) (codeBits 4 b)
      have second := codeOfBits_width (range b (List.mem_cons_of_mem _ List.mem_cons_self)) 0
      have low := codeBits_lt 4 a
      have high := codeBits_lt 4 b
      have byte : (BitVec.ofNat 8 (codeBits 4 a + 16 * codeBits 4 b)).toNat = codeBits 4 a + 16 * codeBits 4 b := by
        rw [BitVec.toNat_ofNat]
        exact Nat.mod_eq_of_lt (by omega)
      have shifted : (codeBits 4 a + 16 * codeBits 4 b) / 16 = codeBits 4 b := by omega
      refine ⟨by rw [packStandard, List.length_cons, length_], ?_⟩
      rw [packStandard, unpackStandard, reads, byte, shifted]
      congr 1
      congr 1

/-! ### COMPACT codes, eight in three bytes (R189) -/

/-- The little-endian value of codes, code `j` in bits `3j` to `3j + 2`. -/
def compactValue : List Int → Nat
  | [] => 0
  | c :: rest => codeBits 3 c + 8 * compactValue rest

theorem compactValue_lt (codes : List Int) : compactValue codes < 8 ^ codes.length := by
  induction codes with
  | nil => exact Nat.one_pos
  | cons c rest ih =>
    have low := codeBits_lt 3 c
    rw [compactValue, List.length_cons, Nat.pow_succ']
    omega

theorem compactValue_codes {codes : List Int} (range : ∀ c ∈ codes, Width.compact.qmin ≤ c ∧ c ≤ Width.compact.qmax) :
    ((List.range codes.length).map fun j => codeOfBits 3 (compactValue codes / 8 ^ j)) = codes := by
  induction codes with
  | nil => rfl
  | cons c rest ih =>
    have first := codeOfBits_width (range c List.mem_cons_self) (compactValue rest)
    have low := codeBits_lt 3 c
    have shifted (j : Nat) : compactValue (c :: rest) / 8 ^ (j + 1) = compactValue rest / 8 ^ j := by
      rw [Nat.pow_succ', ← Nat.div_div_eq_div_mul, compactValue]
      congr 1
      omega
    rw [List.length_cons, List.range_succ_eq_map, List.map_cons, List.map_map, Nat.pow_zero, Nat.div_one]
    congr 1
    refine Eq.trans (List.map_congr_left fun j _ => ?_) (ih fun d hd => range d (List.mem_cons_of_mem _ hd))
    show codeOfBits 3 (compactValue (c :: rest) / 8 ^ (j + 1)) = _
    rw [shifted]

theorem packCompact_group {group : List Int} (eight : group.length = 8) (rest : List Int) :
    packCompact (group ++ rest) = leBytes 3 (compactValue group) ++ packCompact rest := by
  match group, eight with
  | [a, b, c, d, e, f, g, h], _ => rfl

theorem unpackCompact_group (v : Nat) (rest : List Byte) :
    unpackCompact (leBytes 3 v ++ rest) = compactGroup (v % 256 ^ 3) ++ unpackCompact rest := by
  rw [← leValue_leBytes]
  rfl

theorem unpack_packCompact (n : Nat) {codes : List Int} (size : codes.length = 8 * n)
    (range : ∀ c ∈ codes, Width.compact.qmin ≤ c ∧ c ≤ Width.compact.qmax) :
    (packCompact codes).length = 3 * n ∧ unpackCompact (packCompact codes) = codes := by
  induction n generalizing codes with
  | zero =>
    have nothing : codes = [] := List.length_eq_zero_iff.1 size
    rw [nothing]
    exact ⟨rfl, rfl⟩
  | succ n ih =>
    obtain ⟨group, rest, rfl, eight⟩ : ∃ group rest, codes = group ++ rest ∧ group.length = 8 :=
      ⟨codes.take 8, codes.drop 8, (List.take_append_drop 8 codes).symm, by rw [List.length_take]; omega⟩
    obtain ⟨length_, reads⟩ := ih (codes := rest) (by rw [List.length_append] at size; omega)
      fun c hc => range c (List.mem_append_right _ hc)
    have small : compactValue group % 256 ^ 3 = compactValue group := Nat.mod_eq_of_lt (by
      have := compactValue_lt group
      rw [eight] at this
      exact this)
    have group_reads : compactGroup (compactValue group) = group := by
      have := compactValue_codes (codes := group) fun c hc => range c (List.mem_append_left _ hc)
      rwa [eight] at this
    rw [packCompact_group eight, unpackCompact_group, small, group_reads, reads]
    exact ⟨by rw [List.length_append, leBytes_length, length_]; omega, rfl⟩

/-! ### The header byte (R189) -/

theorem headerByte_reads {r : FrameRecord} (small : r.exponent < 16) :
    headerWidth (headerByte r) = r.width ∧ headerDamaged (headerByte r) = r.damaged ∧
      (headerByte r).toNat % 16 = r.exponent := by
  have bit (v j : Nat) (inside : j < 8) : (BitVec.ofNat 8 v).getLsbD j = decide (v / 2 ^ j % 2 = 1) := by
    rw [BitVec.getLsbD_ofNat, decide_eq_true inside, Bool.true_and, Nat.testBit_eq_decide_div_mod_eq]
  obtain ⟨w, e, base, codes, damaged⟩ := r
  have exponent_ : e % 16 = e := Nat.mod_eq_of_lt small
  simp only [headerByte, headerWidth, headerDamaged, bit _ _ (by decide : 4 < 8), bit _ _ (by decide : 5 < 8), exponent_,
    BitVec.toNat_ofNat]
  have small' : e < 16 := small
  cases w <;> cases damaged <;> simp <;> omega

/-! ### The record in its bytes (R16, R189) -/

/-- The codes of a record in bytes (R189). -/
def Width.pack (w : Width) (codes : List Int) : List Byte :=
  match w with
  | .standard => packStandard codes
  | .compact => packCompact codes

theorem FrameRecord.toBytes_eq (r : FrameRecord) :
    r.toBytes = headerByte r :: (leBytes 2 r.base.toNat ++ r.width.pack r.codes) := by
  obtain ⟨w, e, base, codes, damaged⟩ := r
  cases w <;> rfl

theorem Width.unpackCodes_pack (w : Width) {codes : List Int} (size : codes.length = 160)
    (range : ∀ c ∈ codes, w.qmin ≤ c ∧ c ≤ w.qmax) (more : List Byte) :
    (w.pack codes).length + 3 = w.recordBytes ∧ unpackCodes w (w.pack codes ++ more) = codes := by
  cases w with
  | standard =>
    obtain ⟨length_, reads⟩ := unpack_packStandard 80 size range
    exact ⟨by rw [Width.pack, length_]; rfl, by rw [Width.pack, unpackCodes, List.take_left' length_, reads]⟩
  | compact =>
    obtain ⟨length_, reads⟩ := unpack_packCompact 20 size range
    exact ⟨by rw [Width.pack, length_]; rfl, by rw [Width.pack, unpackCodes, List.take_left' length_, reads]⟩

theorem FrameRecord.ofBytes_toBytes {r : FrameRecord} (small : r.exponent < 16) (size : r.codes.length = 160)
    (range : ∀ c ∈ r.codes, r.width.qmin ≤ c ∧ c ≤ r.width.qmax) (more : List Byte) :
    FrameRecord.ofBytes (r.toBytes ++ more) = r := by
  obtain ⟨width_, damaged_, exponent_⟩ := headerByte_reads small
  have base_ : BitVec.ofNat 16 (leValue (((r.toBytes ++ more).drop 1).take 2)) = r.base := by
    rw [FrameRecord.toBytes_eq]
    show BitVec.ofNat 16 (leValue (leBytes 2 r.base.toNat)) = r.base
    rw [leValue_leBytes, Nat.mod_eq_of_lt (show r.base.toNat < 256 ^ 2 from r.base.isLt), BitVec.ofNat_toNat,
      BitVec.setWidth_eq]
  have codes_ : unpackCodes r.width ((r.toBytes ++ more).drop 3) = r.codes := by
    rw [FrameRecord.toBytes_eq]
    exact (r.width.unpackCodes_pack size range more).2
  have head_ : (r.toBytes ++ more).headD 0#8 = headerByte r := by
    rw [FrameRecord.toBytes_eq]
    rfl
  unfold FrameRecord.ofBytes
  dsimp only
  rw [head_, width_, damaged_, exponent_, base_, codes_]

/-! ### The records of ENCODE jobs (R2, R4) -/

theorem exponentOf_lt (w : Width) (peak : Nat) : exponentOf w peak < 16 := by
  unfold exponentOf
  cases found : (List.range 16).find? (exponentFits w peak) with
  | none => exact (by decide : (15 : Nat) < 16)
  | some e => exact List.mem_range.1 (List.mem_of_find?_eq_some found)

theorem clampCode_range (w : Width) (q : Int) : w.qmin ≤ clampCode w q ∧ clampCode w q ≤ w.qmax := by
  have ordered : w.qmin ≤ w.qmax := by cases w <;> decide
  unfold clampCode limit
  split
  · exact ⟨le_refl _, ordered⟩
  · split
    · exact ⟨ordered, le_refl _⟩
    · omega

theorem mem_closedLoop_range {w : Width} {e : Nat} {p : Int} {xs : List Int} {q : Int}
    (h : q ∈ (closedLoop w e p xs).map Prod.fst) : w.qmin ≤ q ∧ q ≤ w.qmax := by
  induction xs generalizing p with
  | nil => cases h
  | cons x rest ih =>
    rw [closedLoop, List.map_cons] at h
    rcases List.mem_cons.1 h with same | later
    · rw [same]
      exact clampCode_range w _
    · exact ih later

/-- Settles O49: the header, the base and the codes are read back one by one, the codes in groups of one or three bytes. -/
theorem frameRecordSurvivesItsBytes : Obligations.FrameRecordSurvivesItsBytes := by
  refine ⟨fun r more small size range => ⟨?_, FrameRecord.ofBytes_toBytes small size range more⟩,
    fun w base f full => ⟨exponentOf_lt w _, ?_, fun q hq => mem_closedLoop_range hq⟩⟩
  · have packed := (r.width.unpackCodes_pack size range []).1
    rw [FrameRecord.toBytes_eq, List.length_cons, List.length_append, leBytes_length]
    omega
  · show ((encodeSteps w base f).map Prod.fst).length = 160
    rw [List.length_map, encodeSteps_length, full]

end Sys2Proof.Machine

/-! PROOFS. Slot words, their parity and their reads (06_slot_memory.md R113, R114). -/

namespace Sys2Proof.Machine

/-! ### Parity (R113) -/

/-- An exclusive-or of bits, one after the other. -/
theorem foldl_xor (bits : List Nat) (f g : Nat → Bool) (a b : Bool) :
    bits.foldl (fun acc i => acc ^^ (f i ^^ g i)) (a ^^ b) =
      (bits.foldl (fun acc i => acc ^^ f i) a ^^ bits.foldl (fun acc i => acc ^^ g i) b) := by
  induction bits generalizing a b with
  | nil => rfl
  | cons i rest ih =>
    have swap : ((a ^^ b) ^^ (f i ^^ g i)) = ((a ^^ f i) ^^ (b ^^ g i)) := by
      cases a <;> cases b <;> cases f i <;> cases g i <;> rfl
    rw [List.foldl_cons, List.foldl_cons, List.foldl_cons, swap, ih]

theorem oddOnes_xor (v w : StoredWord) : oddOnes (v ^^^ w) = (oddOnes v ^^ oddOnes w) := by
  unfold oddOnes
  simp only [BitVec.getLsbD_xor]
  exact foldl_xor (List.range 17) v.getLsbD w.getLsbD false false

/-- The parity of the sixteen bits of a word and of its parity bit. -/
theorem oddOnes_parityBit (w : StoredWord) :
    oddOnes w = (((List.range 16).foldl (fun acc i => acc ^^ w.getLsbD i) false) ^^ w.getLsbD 16) := by
  rw [oddOnes, List.range_succ, List.foldl_append]
  rfl

theorem oddOnes_parity : oddOnes 0x10000#17 = true := by decide

/-- The parity bit makes the number of ones odd, above the word's own bits (R113). -/
theorem withParity_sound (w : BitVec 16) : oddOnes (withParity w) = true ∧ (withParity w).setWidth 16 = w := by
  have own : ((w.setWidth 17 : StoredWord).setWidth 16) = w := by simp
  have apart : (w.setWidth 17 : StoredWord) &&& 0x10000#17 = 0#17 := by
    apply BitVec.eq_of_getLsbD_eq
    intro i inside
    rw [BitVec.getLsbD_and, BitVec.getLsbD_setWidth, BitVec.getLsbD_zero]
    by_cases top : i = 16
    · subst top
      simp
    · have low : (0x10000#17).getLsbD i = false := by
        have : i < 16 := by omega
        interval_cases i <;> rfl
      rw [low, Bool.and_false]
  have as_xor : (w.setWidth 17 : StoredWord) ||| 0x10000#17 = (w.setWidth 17 : StoredWord) ^^^ 0x10000#17 := by
    apply BitVec.eq_of_getLsbD_eq
    intro i inside
    have bit := congrArg (fun v => v.getLsbD i) apart
    simp only [BitVec.getLsbD_and, BitVec.getLsbD_zero] at bit
    rw [BitVec.getLsbD_or, BitVec.getLsbD_xor]
    revert bit
    cases (w.setWidth 17 : StoredWord).getLsbD i <;> cases (0x10000#17).getLsbD i <;> decide
  unfold withParity
  dsimp only
  split
  · rename_i odd
    exact ⟨odd, own⟩
  · rename_i even
    have even' : oddOnes (w.setWidth 17 : StoredWord) = false := by simpa using even
    rw [as_xor]
    refine ⟨by rw [oddOnes_xor, even', oddOnes_parity, Bool.false_xor], ?_⟩
    rw [BitVec.setWidth_xor, own]
    simp

theorem oddOnes_withParity (w : BitVec 16) : oddOnes (withParity w) = true := (withParity_sound w).1

/-! ### Words and bytes (R113) -/

theorem mem_wordsOfBytes {w : StoredWord} : ∀ {bytes : List Byte}, w ∈ wordsOfBytes bytes → ∃ v, w = withParity v
  | [], h => nomatch h
  | [lo], h => ⟨0#8 ++ lo, List.mem_singleton.1 h⟩
  | lo :: hi :: _, h => (List.mem_cons.1 h).elim (fun same => ⟨hi ++ lo, same⟩) mem_wordsOfBytes

theorem bytes_of_withParity (lo hi : Byte) :
    (withParity (hi ++ lo)).setWidth 8 = lo ∧ (withParity (hi ++ lo) >>> 8).setWidth 8 = hi := by
  obtain ⟨-, own⟩ := withParity_sound (hi ++ lo)
  have bits (i : Nat) (inside : i < 16) : (withParity (hi ++ lo)).getLsbD i = (hi ++ lo).getLsbD i := by
    conv_rhs => rw [← own, BitVec.getLsbD_setWidth, decide_eq_true inside, Bool.true_and]
  constructor <;> apply BitVec.eq_of_getLsbD_eq <;> intro i inside <;>
    rw [BitVec.getLsbD_setWidth, decide_eq_true inside, Bool.true_and]
  · rw [bits i (by omega), BitVec.getLsbD_append, if_pos inside]
  · rw [BitVec.getLsbD_ushiftRight, bits (8 + i) (by omega), BitVec.getLsbD_append,
      if_neg (by omega : ¬8 + i < 8), Nat.add_sub_cancel_left]

theorem bytesOfWords_wordsOfBytes (n : Nat) {bytes : List Byte} (even : bytes.length = 2 * n) :
    bytesOfWords (wordsOfBytes bytes) = bytes := by
  induction n generalizing bytes with
  | zero =>
    rw [List.length_eq_zero_iff.1 even]
    rfl
  | succ n ih =>
    match bytes, even with
    | lo :: hi :: rest, even =>
      obtain ⟨low, high⟩ := bytes_of_withParity lo hi
      rw [wordsOfBytes, bytesOfWords, low, high, ih (by simp only [List.length_cons] at even; omega)]

theorem slotImage_bytes {bytes : List Byte} (fits : bytes.length ≤ 84) :
    bytesOfWords (slotImage bytes) = bytes ++ List.replicate (84 - bytes.length) 0#8 := by
  have filled : (bytes ++ List.replicate (2 * Config.slotWords) 0#8).take (2 * Config.slotWords) =
      bytes ++ List.replicate (84 - bytes.length) 0#8 := by
    rw [show 2 * Config.slotWords = 84 from rfl, List.take_append, List.take_of_length_le fits, List.take_replicate]
    congr 2
    omega
  rw [slotImage, filled]
  exact bytesOfWords_wordsOfBytes 42 (by rw [List.length_append, List.length_replicate]; omega)

theorem slotImage_passes (bytes : List Byte) : readPasses (slotImage bytes) = true := by
  refine List.all_eq_true.2 fun w hw => ?_
  obtain ⟨v, rfl⟩ := mem_wordsOfBytes hw
  exact oddOnes_withParity v

/-! ### Reads (R114) -/

theorem Store.read_eq {st : Store} {slot : Nat} {words : List StoredWord} (h : st.words slot = some words)
    (errs : List CellError) :
    st.read errs slot =
      .ok (if readPasses (readBack errs slot words) then some (bytesOfWords (readBack errs slot words)) else none) := by
  rw [Store.read, h]

theorem readBackFrom_passes (errs : List CellError) (slot i : Nat) {words : List StoredWord}
    (odd : ∀ w ∈ words, oddOnes w = true) :
    readPasses (readBackFrom errs slot i words) = false ↔
      ∃ j, j < words.length ∧ oddOnes (errorMask errs slot (i + j)) = true := by
  induction words generalizing i with
  | nil => simp [readPasses, readBackFrom]
  | cons w rest ih =>
    have first : oddOnes (w ^^^ errorMask errs slot i) = !oddOnes (errorMask errs slot i) := by
      rw [oddOnes_xor, odd w List.mem_cons_self, Bool.true_xor]
    have rest_ := ih (i + 1) fun v hv => odd v (List.mem_cons_of_mem _ hv)
    have both : readPasses (readBackFrom errs slot i (w :: rest)) =
        (!oddOnes (errorMask errs slot i) && readPasses (readBackFrom errs slot (i + 1) rest)) := by
      rw [readBackFrom, readPasses, List.all_cons, first]
      rfl
    rw [both, Bool.and_eq_false_iff, Bool.not_eq_false', rest_]
    constructor
    · rintro (here | ⟨j, inside, wrong⟩)
      · exact ⟨0, Nat.succ_pos _, here⟩
      · exact ⟨j + 1, Nat.succ_lt_succ inside, by rwa [show i + (j + 1) = i + 1 + j by omega]⟩
    · rintro ⟨j, inside, wrong⟩
      cases j with
      | zero => exact .inl wrong
      | succ j => exact .inr ⟨j, Nat.lt_of_succ_lt_succ inside, by rwa [show i + 1 + j = i + (j + 1) by omega]⟩

theorem Store.read_blank {slot : Nat} (inside : slot < 8192) :
    Store.blank.read [] slot = .ok (some (List.replicate 84 0#8)) := by
  have words : Store.blank.words slot = some blankWords := by
    show Store.blank.background slot = some blankWords
    rw [Store.background, if_pos (show slot < Config.slotCount from inside)]
    rfl
  rw [Store.read_eq words, readBack_nil, show blankWords = slotImage [] from rfl,
    if_pos (slotImage_passes []), slotImage_bytes (by decide)]
  rfl

/-- Settles O50: what is put into a slot is what `Store.words_put` reads there, and a word fails by the parity of its wrong
bits alone. -/
theorem slotsReturnWhatWasWritten : Obligations.SlotsReturnWhatWasWritten := by
  refine ⟨fun st slot bytes fits => ⟨?_, fun errs other apart => ?_⟩, withParity_sound, fun errs slot words odd => ?_,
    fun slot inside => ⟨fun st errs => ?_, Store.read_blank inside⟩⟩
  · have words : (st.write slot bytes).words slot = some (slotImage bytes) := by
      rw [Store.write, Store.words_put, if_pos rfl]
    rw [Store.read_eq words, readBack_nil, if_pos (slotImage_passes bytes), slotImage_bytes fits]
  · have words : (st.write slot bytes).words other = st.words other := by
      rw [Store.write, Store.words_put, if_neg apart]
    rw [Store.read, words, Store.read]
  · have passes := readBackFrom_passes errs slot 0 odd
    simpa [readBack] using passes
  · obtain ⟨words, held⟩ := Option.isSome_iff_exists.1 (st.words_isSome (show slot < Config.slotCount from inside))
    exact ⟨_, Store.read_eq held errs⟩

end Sys2Proof.Machine

/-! PROOFS. Requests as a whole (11_control_link_requests_and_events.md R65, R180, R181): what places a reply, and what a refused
request leaves. -/

namespace Sys2Proof.Machine

/-! ### The receive queue under characters (R178, R179) -/

/-- A character adds to the receive queue or leaves it, and touches nothing else of the two queues (R178). -/
theorem Link.char_queues (l : Link) (b : Byte) : l.rx.length ≤ (l.char b).rx.length ∧ (l.char b).tx = l.tx := by
  have same {l' : Link} (rx : l'.rx = l.rx) (tx : l'.tx = l.tx) : l.rx.length ≤ l'.rx.length ∧ l'.tx = l.tx :=
    ⟨by rw [rx], tx⟩
  unfold Link.char
  split
  · split
    · exact same rfl rfl
    · exact same rfl rfl
  · exact same rfl rfl
  · unfold Link.checkLength
    split
    · exact same rfl rfl
    · split <;> exact same rfl rfl
  · unfold Link.collect
    dsimp only
    split
    · split
      · exact same rfl rfl
      · exact ⟨by simp [Link.complete], rfl⟩
    · exact same rfl rfl
  · exact same rfl rfl

theorem Link.foldl_char_queues (chars : List Byte) (l : Link) :
    l.rx.length ≤ (chars.foldl Link.char l).rx.length ∧ (chars.foldl Link.char l).tx = l.tx := by
  induction chars generalizing l with
  | nil => exact ⟨le_refl _, rfl⟩
  | cons b rest ih =>
    obtain ⟨rx, tx⟩ := l.char_queues b
    exact ⟨rx.trans (ih (l.char b)).1, (ih (l.char b)).2.trans tx⟩

/-- Only a request shortens the receive queue of a part whose transmit queue is not emptied (R178 to R180, R188, R191). -/
theorem State.Next.queues {s t : State} (h : s.Next t) :
    t.link.tx = [] ∨ s.link.rx.length ≤ t.link.rx.length ∨
      ∃ m rest r t', s.AtFront m rest ∧ (s.taken rest).Answer m (r, t') ∧ t = t'.placeReply m r := by
  cases h with
  | request m rest r t' front answer => exact .inr (.inr ⟨m, rest, r, t', front, answer, rfl⟩)
  | powerOn => exact .inl rfl
  | held => exact .inl rfl
  | release => exact .inl rfl
  | makeFull => exact .inl rfl
  | makeKeep => exact .inl rfl
  | receive chars =>
    refine .inr (.inl ?_)
    unfold State.receive
    split
    · exact (s.link.foldl_char_queues chars).1
    · exact le_refl _
  | idle =>
    refine .inr (.inl ?_)
    rw [State.idle_eq]
  | tick =>
    refine .inr (.inl ?_)
    rw [State.tickOnce_eq]
  | _ => exact .inr (.inl (le_refl _))

/-! ### Replies (R180, R189) -/

theorem replyBytes_ne_nil (m : Message) (r : Reply) : replyBytes m r ≠ [] := List.cons_ne_nil _ _

theorem Status.code_injective {a b : Status} (h : a.code = b.code) : a = b := by
  revert h
  cases a <;> cases b <;> decide

theorem replyBytes_injective {m : Message} {r r' : Reply} (h : replyBytes m r = replyBytes m r') : r = r' := by
  have bytes (r : Reply) : replyBytes m r =
      0xD7#8 :: BitVec.ofNat 8 (4 + r.body.length) :: BitVec.ofNat 8 ((4 + r.body.length) / 256) :: replyKind m.kind ::
        m.target :: m.tag :: r.status.code :: r.body := rfl
  rw [bytes r, bytes r'] at h
  simp only [List.cons.injEq, true_and] at h
  obtain ⟨-, -, code, body⟩ := h
  obtain ⟨status, bytes_⟩ := r
  obtain ⟨status', bytes_'⟩ := r'
  exact congr (congrArg Reply.mk (Status.code_injective code)) body

theorem State.Answer.transmits {m : Message} {s t : State} {r : Reply} (h : s.Answer m (r, t)) : t.link.tx = s.link.tx := by
  cases h <;> rfl

/-- What a refused request leaves, a MARK refused with FULL aside (R65, R181). -/
theorem State.Answer.of_refusal {m : Message} {s t : State} {r : Reply} (h : s.Answer m (r, t)) (refused : ¬r.status.accepts)
    (not_marks : m.kind = 0x24#8 → r.status ≠ .full) : r.body = [] ∧ t = s := by
  cases h with
  | works works =>
    cases works with
    | refused _ => exact ⟨rfl, rfl⟩
    | marksFull c i kind => exact absurd rfl (not_marks kind)
    | reported accepts => exact absurd accepts refused
    | carried accepts => exact absurd accepts refused
  | configure body cfg accepts => exact absurd accepts refused
  | _ => exact absurd accepts_ok refused

/-- Settles O52: a command that takes the request at the front and places this reply is that request, and an owner that
refuses answers with the state it was given. -/
theorem refusalsChangeNothing : Obligations.RefusalsChangeNothing := by
  intro s t m rest command status body front h rx tx not_ok not_clamped not_marks
  rcases (exec_next h).queues with emptied | longer | ⟨m', rest', r, t', front', answer, rfl⟩
  · rw [emptied] at tx
    exact absurd (List.append_eq_nil_iff.1 tx.symm).2 (replyBytes_ne_nil m _)
  · rw [front.2.2, rx, List.length_cons] at longer
    omega
  · obtain ⟨rfl, rfl⟩ : m = m' ∧ rest = rest' := by
      have same := front.2.2.symm.trans front'.2.2
      exact List.cons.inj same
    have placed : makeRoom s.link.tx ++ replyBytes m r = makeRoom s.link.tx ++ replyBytes m ⟨status, body⟩ := by
      rw [← tx, State.placeReply, answer.transmits, State.taken]
    obtain rfl : r = ⟨status, body⟩ := replyBytes_injective (List.append_cancel_left placed)
    obtain ⟨empty_, same⟩ := answer.of_refusal (fun accepts => accepts.elim not_ok not_clamped) not_marks
    have empty' : body = [] := empty_
    rw [same, empty', State.placeReply, State.taken, State.answered]

end Sys2Proof.Machine

/-! PROOFS. What every command is made of.

`Works.Moves R` adds to the moves of a span (`Works.SpanMoves`) the other elementary moves of the works, each under the
guards that its command has checked; UNLOAD, a move of its own, is left to the invariants. The walk over the requests is made here once for every such relation
(`Works.Moves.request`); each invariant of 95_what_each_step_holds.md is a case of it. -/

namespace Sys2Proof.Machine

/-- A relation between works that holds across every elementary move. -/
structure Works.Moves (R : Works → Works → Prop) : Prop extends Works.SpanMoves R where
  clearEvent : ∀ (k : Works) (e : Event), R k (k.clearEvent e)
  freeTail : ∀ (k : Works) (c : Nat), R k (k.freeTail c)
  reviewOn : ∀ {k : Works} {c p : Nat} (f : Channel → Channel), (k.chan c).state = .reviewing →
    (k.chan c).playPoint = some p → (k.chan c).stopPoint ≠ some (p + 1) →
    (f (k.chan c)).playPoint = some (p + 1) →
    (k.chan c).Calm { f (k.chan c) with playPoint := (k.chan c).playPoint } → R k (k.modChan c f)
  reviewOver : ∀ {k : Works} {c i q : Nat} (f : Channel → Channel), (k.chan c).state = .reviewing →
    (k.chan c).letter = some i → (∀ p, (k.chan c).playPoint = some p → q = p ∨ q = p + 1) →
    (f (k.chan c)).state = .ready → (k.chan c).Calm (f (k.chan c)) →
    R k ((k.modLetter i fun l => { l with cursor := q }).modChan c f)
  reviewStart : ∀ {k : Works} {c i : Nat} (o : StopOption), (k.chan c).state = .ready → (k.chan c).letter = some i →
    ((k.letter i).stopPoint o).1 ≠ (k.letter i).cursor → R k (k.enterReview c i ((k.letter i).stopPoint o).1)
  grantEncode : ∀ (k : Works) (c : Nat), k.job = none → R k (k.grantEncode c)
  decodeJob : ∀ {k : Works} {c : Nat} {source : JobSource} (id : Nat) (side : Side) (generation : BitVec 16)
    (f : Channel → Channel), k.job = none → (∀ i, source = .letter i → (k.chan c).letter = some i) →
    (k.chan c).Calm (f (k.chan c)) →
    R k { k.modChan c f with job := some (.decode c source id side generation) }
  coded : ∀ {k : Works} {c i entry : Nat} {width : Width} {base : Sample} {w : WaitFrame} (carry : Sample),
    k.job = some (.encode c i entry width base) → (k.chan c).servedFrame = some w →
    R k ({ (k.codeEntry c i entry).1 with job := none }.modChan c fun ch =>
      { ch with carry := carry, capture := ch.capture.filter fun w => !w.inService })
  dropJob : ∀ (k : Works), R k { k with job := none }
  lose : ∀ {k : Works} {c entry slot : Nat} {source : JobSource}, k.jobSlot c source entry = some slot →
    R k ((k.loseEntry c source entry).retireAtRun slot)
  cursorTo : ∀ {k : Works} {c i p : Nat}, (k.chan c).state = .ready → (k.chan c).letter = some i →
    ((k.letter i).sealB ≤ (k.letter i).length → (k.letter i).sealB ≤ p ∧ p ≤ (k.letter i).length) →
    R k (k.modLetter i fun l => { l with cursor := p })
  openLetter : ∀ {k : Works} {c i : Nat} (job : Nat), c < Config.channelCount → (k.chan c).state = .closed →
    k.findFree = some i → R k (k.openLetter c i job)
  joined : ∀ {k : Works} {c i job : Nat}, c < Config.channelCount → (k.chan c).state = .closed →
    k.findJob job = some i → (k.letter i).state = .detached →
    R k ((k.modLetter i fun l => { l with state := .attached, channel := some c }).modChan c fun ch =>
      ch.openAs .dictation .ready (some i))
  detachLetter : ∀ {k : Works} {c i : Nat}, c < Config.channelCount → (k.chan c).state = .ready → k.Holds c i →
    R k (k.detachLetter c i)
  endLetter : ∀ {k : Works} {c i : Nat}, c < Config.channelCount → (k.chan c).state = .ready → k.Holds c i →
    R k ((k.modChan c Channel.release).modLetter i Letter.ended)
  discardChannel : ∀ {k : Works} {c i : Nat}, c < Config.channelCount → (k.chan c).state = .ready → k.Holds c i →
    R k ((k.modChan c Channel.release).discardLetter i)
  discardLetter : ∀ {k : Works} {i job : Nat}, k.findJob job = some i → (k.letter i).state ≠ .attached →
    R k (k.discardLetter i)
  truncated : ∀ {k : Works} {c i : Nat}, (k.chan c).state = .ready → (k.chan c).letter = some i →
    R k ((k.modLetter i Letter.cutOffAtCursor).giveBack ((k.letter i).cutAway (k.letter i).cursor).length
      (slotsOf ((k.letter i).cutAway (k.letter i).cursor)))
  marked : ∀ {k : Works} {c i : Nat} {kind : MarkKind} (label : BitVec 16), (k.chan c).letter = some i →
    (k.letter i).marksFull kind (k.capturePoint c i) = false →
    (k.letter i).splitRun (k.capturePoint c i) k.nextEntry = none →
    R k ((k.modLetter i fun l => l.withMark kind label (k.capturePoint c i)).modChan c Channel.endGrowth)
  markedSplit : ∀ {k : Works} {c i : Nat} {kind : MarkKind} {edit : List Entry} (label : BitVec 16),
    (k.chan c).letter = some i → (k.letter i).marksFull kind (k.capturePoint c i) = false →
    (k.letter i).splitRun (k.capturePoint c i) k.nextEntry = some edit → k.freeEntries ≠ 0 →
    R k { ((k.modLetter i fun l => l.withMark kind label (k.capturePoint c i)).modChan c Channel.endGrowth).modLetter i
        (fun l => { l with edit := edit }) with freeEntries := k.freeEntries - 1, nextEntry := k.nextEntry + 1 }
  take : ∀ {k k' : Works} {st : Store} {errs : List CellError} {i job count : Nat} {r : Reply}, k.startup = .done →
    k.findJob job = some i → k.takeFrom st errs i count = .ok (r, k') → R k k'
  load : ∀ {k : Works} {c : Nat}, c < Config.channelCount → (k.chan c).state = .closed → R k (k.modChan c Channel.load)
  feed : ∀ {k : Works} {c : Nat} {rs : List FedRecord}, c < Config.channelCount → (k.chan c).state ≠ .closed →
    (k.chan c).kind ≠ .dictation → k.hasRoom c rs = true →
    R k ((k.modChan c fun ch => ch.feedWith rs (queued k.nextEntry k.freePool rs)).takeForFeed rs.length
      (fedFrames rs).length)

/-! ### Calm changes of a channel -/

/-- A review that is over (R87). -/
theorem Channel.Calm.reviewEnded {ch ch' : Channel} (reviewing : ch.state = .reviewing) (ready : ch'.state = .ready)
    (kind : ch'.kind = ch.kind) (letter : ch'.letter = ch.letter) (capture : ch'.capture = ch.capture)
    (feedIds : ch'.feed.map FeedRec.id = ch.feed.map FeedRec.id) (feedSlots : feedSlotsOf ch'.feed = feedSlotsOf ch.feed)
    (growing : ch'.det.growing = none ∨ ch'.det.growing = ch.det.growing) : ch.Calm ch' where
  kind := kind
  letter := letter
  closed := by simp [reviewing, ready]
  capture := capture
  feedIds := feedIds
  feedSlots := feedSlots
  growing := growing.imp_right fun same => ⟨same, by simp [reviewing]⟩
  review := by simp [ready]
  frames := by simp [reviewing]

/-- The end of a span on a channel that has not been closed, RECORDING or past its implicit STOP (R82). -/
theorem Channel.Calm.spanOver {ch : Channel} (opened : ch.state ≠ .closed) : ch.Calm ch.endSpan where
  kind := rfl
  letter := rfl
  closed := by
    unfold Channel.endSpan
    dsimp only
    split <;> simp [opened]
  capture := rfl
  feedIds := rfl
  feedSlots := rfl
  growing := .inl rfl
  review := by
    unfold Channel.endSpan
    dsimp only
    split <;> simp
  frames _ _ := by
    unfold Channel.endSpan
    dsimp only
    split
    · rename_i empty
      exact .inr (List.isEmpty_iff.1 empty)
    · exact .inl (.inr rfl)

/-- What playback changes of a channel that is no dictation channel: its feed queue holds what it held, and it does not come
to review. -/
theorem Channel.Calm.playback {ch ch' : Channel} (plays : ch.kind ≠ .dictation) (kind : ch'.kind = ch.kind)
    (closed : ch'.state = .closed ↔ ch.state = .closed) (review : ch'.state = .reviewing → ch.state = .reviewing)
    (letter : ch'.letter = ch.letter) (capture : ch'.capture = ch.capture)
    (feedIds : ch'.feed.map FeedRec.id = ch.feed.map FeedRec.id) (feedSlots : feedSlotsOf ch'.feed = feedSlotsOf ch.feed)
    (growing : ch'.det.growing = ch.det.growing) : ch.Calm ch' where
  kind := kind
  letter := letter
  closed := closed
  capture := capture
  feedIds := feedIds
  feedSlots := feedSlots
  growing := .inr ⟨growing, fun h => absurd h plays⟩
  review h := ⟨review h, .inl plays⟩
  frames h := absurd h plays

/-! ### Channels stay open in a span -/

/-- Every channel that was open stays open. -/
def Works.StaysOpen (k k' : Works) : Prop := ∀ c, (k.chan c).state ≠ .closed → (k'.chan c).state ≠ .closed

theorem Works.StaysOpen.modChan {k k' : Works} (chans : k'.chans = k.chans) {c : Nat} {f : Channel → Channel}
    (state : (f (k.chan c)).state = (k.chan c).state) : k.StaysOpen (k'.modChan c f) := fun d h => by
  have same := Works.chan_of_chans_eq chans
  by_cases hd : d = c
  · subst hd
    rcases k'.chan_modChan_cases d f with e | e <;> rw [e, same]
    · rwa [state]
    · exact h
  · rwa [Works.chan_modChan_ne _ _ _ _ hd, same]

theorem Works.staysOpen_spanMoves : Works.SpanMoves Works.StaysOpen where
  refl _ := fun _ h => h
  trans h h' := fun c hc => h' c (h c hc)
  other h := fun c hc => by rwa [Works.chan_of_chans_eq h.chans]
  raise k kind chan detail label := fun c hc => by simpa using hc
  channels k chans h := fun c hc closed =>
    hc ((forall₂_getD h c (Channel.Calm.refl Channel.initial)).closed.1 closed)
  letter k i g _ := fun _ hc => hc
  sealing k i := fun c hc => by rwa [(k.applySealing_kept i c).2.1]
  placeRun _ _ placed := .modChan (Works.placeEntry_chans placed) rfl
  placeSpeech f _ _ _ placed := .modChan (Works.placeEntry_chans placed) rfl
  grow mode _ _ _ _ _ _ := by
    rw [Works.giveBack_eq_given]
    exact fun _ hc => hc

theorem Works.releaseHeld_open {k : Works} {c : Nat} (recording : (k.chan c).state = .recording) :
    ((k.releaseHeld c).chan c).state ≠ .closed :=
  (Works.staysOpen_spanMoves.span_releaseHeld fun _ => recording).moved c (by simp [recording])

/-! ### Channels after some operations -/

/-- A channel whose review has been ended is READY with its letter. -/
theorem Works.chan_endReview {k : Works} {c : Nat} (i : Nat) (reviewing : (k.chan c).state = .reviewing) :
    ((k.endReview c i).chan c).state = .ready ∧ ((k.endReview c i).chan c).letter = (k.chan c).letter := by
  have exists_ : c < k.chans.length := Works.lt_of_state (by simp [reviewing])
  unfold Works.endReview
  dsimp only
  rw [Works.chan_modChan_self (k.modLetter i _) c _ exists_]
  exact ⟨rfl, rfl⟩

theorem Works.settled_letter (k : Works) (c : Nat) : ((k.settled c).chan c).letter = (k.chan c).letter := by
  unfold Works.settled
  split
  · rename_i recording
    exact Works.releaseHeld_letter recording
  · rfl

theorem rearmed_feed (low high : Nat) (queue : List FeedRec) :
    (rearm low high queue).map FeedRec.id = queue.map FeedRec.id ∧
      feedSlotsOf (rearm low high queue) = feedSlotsOf queue := by
  have each (r : FeedRec) : (r.rearmed low high).id = r.id ∧ (r.rearmed low high).slot = r.slot := by
    obtain ⟨id, pos, body⟩ := r
    unfold FeedRec.rearmed FeedRec.slot
    cases body <;> dsimp only <;> (try split) <;> exact ⟨rfl, rfl⟩
  rw [show rearm low high queue = queue.map (FeedRec.rearmed low high) from rfl, feedSlotsOf, List.filterMap_map, List.map_map]
  exact ⟨List.map_congr_left fun r _ => (each r).1, List.filterMap_congr fun r _ => (each r).2⟩

namespace Works.Moves

section
variable {R : Works → Works → Prop} (M : Works.Moves R)
include M

theorem raised (k : Works) (kind : EventKind) (chan detail : Nat) : R k (k.raise kind chan detail) := M.raise _ _ _ _ _

theorem raiseCount (k : Works) (kind : EventKind) (chan : Nat) : R k (k.raiseCount kind chan) := M.raise _ _ _ _ _

theorem of_ite {k a b : Works} {p : Prop} [Decidable p] (h : p → R k a) (h' : ¬p → R k b) : R k (if p then a else b) := by
  split
  · exact h ‹_›
  · exact h' ‹_›

/-! ### Grants (R100 to R102) -/

theorem grantReview (k : Works) (c : Nat) (idle : k.job = none) : R k (k.grantReview c) := by
  unfold Works.grantReview
  dsimp only
  split
  · rename_i e side q stop i target empty prep stop_ letter
    refine M.decodeJob _ _ _ _ idle (fun j same => ?_) ?_
    · cases same
      exact letter
    · cases side <;> exact .of_fields rfl rfl rfl rfl rfl rfl rfl rfl
  · exact M.refl k

theorem grantFeed (k : Works) (c : Nat) (idle : k.job = none) : R k (k.grantFeed c) := by
  unfold Works.grantFeed
  dsimp only
  split
  · rename_i r side _ _
    refine M.decodeJob _ _ _ _ idle (fun j same => nomatch same) ?_
    rw [Channel.prepareFeed_eq]
    cases side <;> exact .of_fields rfl rfl rfl rfl rfl rfl rfl rfl
  · exact M.refl k

theorem grantTo (k : Works) (c : Nat) (idle : k.job = none) : R k (k.grantTo c) := by
  have pointed : R k (if (k.chan c).settings.priority = .urgent then k
      else { k with pointer := (c + 1) % Config.channelCount }) :=
    M.of_ite (fun _ => M.refl k) fun _ => M.other ⟨rfl, rfl, rfl, rfl, rfl, rfl, rfl, rfl, rfl, rfl, rfl, rfl, rfl⟩
  have idle' : (if (k.chan c).settings.priority = .urgent then k
      else { k with pointer := (c + 1) % Config.channelCount }).job = none := by
    split <;> exact idle
  unfold Works.grantTo
  dsimp only
  split
  · exact M.trans pointed (M.grantEncode _ c idle')
  · exact M.trans pointed (M.grantEncode _ c idle')
  · exact M.trans pointed (M.grantReview _ c idle')
  · exact M.trans pointed (M.grantFeed _ c idle')

theorem grantIfIdle (k : Works) : R k k.grantIfIdle := by
  unfold Works.grantIfIdle
  split
  · exact M.refl k
  · split
    · exact M.grantTo k _ ‹_›
    · exact M.refl k

/-! ### Settings (R92 to R95, R162) -/

theorem sealChan (k : Works) (c : Nat) : R k (k.sealChan c) := by
  unfold Works.sealChan
  split
  · exact M.sealing k _
  · exact M.refl k

theorem prepareFeed (k : Works) (c : Nat) : R k (k.modChan c Channel.prepareFeed) := by
  refine M.modChan ?_
  rw [Channel.prepareFeed_eq]
  exact .of_fields rfl rfl rfl rfl rfl rfl rfl rfl

theorem loadSetting (k : Works) (c : Nat) (v : SettingValue) : R k (k.loadSetting c v) := by
  have loaded : R k (k.modChan c fun ch => { ch with settings := ch.settings.load v, staged := ch.staged.drop v }) :=
    M.modChan_fields rfl rfl rfl rfl rfl rfl rfl rfl
  unfold Works.loadSetting
  dsimp only
  split
  · exact M.trans loaded (M.sealChan _ c)
  · exact M.trans loaded (M.freeTail _ c)
  · exact M.trans loaded (M.prepareFeed _ c)
  · exact loaded

theorem foldl {α : Type} {f : Works → α → Works} (each : ∀ k x, R k (f k x)) (xs : List α) (k : Works) :
    R k (xs.foldl f k) := by
  induction xs generalizing k with
  | nil => exact M.refl k
  | cons x rest ih => exact M.trans (each k x) (ih _)

theorem setChannels (k : Works) (chans : List Nat) (values : List SettingValue) : R k (k.setChannels chans values) := by
  refine M.trans (M.foldl (fun k c => ?_) chans k) (M.grantIfIdle _)
  unfold Works.setChannel
  split
  · exact M.foldl (fun k v => M.loadSetting k c v) values k
  · exact M.modChan_fields rfl rfl rfl rfl rfl rfl rfl rfl

/-! ### Motion (R76 to R87) -/

theorem endReview {k : Works} {c i : Nat} (reviewing : (k.chan c).state = .reviewing) (letter : (k.chan c).letter = some i) :
    R k (k.endReview c i) :=
  M.reviewOver (q := (k.chan c).playPoint.getD (k.letter i).cursor)
    (fun ch => { ch.cutOff.clearReview with state := .ready }) reviewing letter
    (fun p play => .inl (by rw [play, Option.getD_some])) rfl (.reviewEnded reviewing rfl rfl rfl rfl rfl rfl (.inr rfl))

theorem startRecording {k : Works} {c : Nat} (mode : RecMode) (ready : (k.chan c).state = .ready) :
    R k (k.modChan c fun ch => ch.startRecording mode) := by
  refine M.modChan ⟨rfl, rfl, ?_, rfl, rfl, rfl, .inr ⟨rfl, fun _ h => ?_⟩, (nomatch ·), fun _ h => ?_⟩
  · simp [Channel.startRecording, ready]
  · rw [ready] at h
    exact nomatch h
  · rw [ready] at h
    exact h.elim (nomatch ·) (nomatch ·)

theorem record {k : Works} {c i : Nat} (mode : RecMode) (letter : (k.chan c).letter = some i) : R k (k.record c i mode).2 := by
  unfold Works.record
  split
  · rename_i ready
    exact M.startRecording mode ready
  · rename_i reviewing
    obtain ⟨ready, -⟩ := Works.chan_endReview i reviewing
    exact M.trans (M.trans (M.endReview reviewing letter) (M.startRecording mode ready)) (M.sealing _ i)
  · refine M.modChan (f := fun ch => ch.changeMode mode) ?_
    unfold Channel.changeMode
    split
    · exact .refl _
    · exact .of_fields rfl rfl rfl rfl rfl rfl rfl rfl
  · exact M.refl k

theorem stopChan {k : Works} {c i : Nat} (letter : (k.chan c).letter = some i) : R k (k.stopChan c i) := by
  unfold Works.stopChan
  split
  · rename_i recording
    exact M.trans (M.span_releaseHeld fun _ => recording).moved
      (M.modChan (.spanOver (Works.releaseHeld_open recording)))
  · rename_i reviewing
    exact M.trans (M.endReview reviewing letter) (M.sealing _ i)
  · exact M.refl k

theorem windFrom {k : Works} {c i : Nat} (marks : List Mark) (t : WindTarget) (ready : (k.chan c).state = .ready)
    (letter : (k.chan c).letter = some i) : R k (k.windFrom i marks t).2 := by
  show R k (k.moveCursor i (clampInt (k.letter i).sealB (k.letter i).length ((k.letter i).windAim marks t)).1)
  unfold Works.moveCursor
  refine M.of_ite (fun _ => M.refl k) fun _ => M.trans (M.cursorTo ready letter fun ordered => ?_) (M.sealing _ i)
  rw [clampInt_eq _ ordered]
  dsimp only
  omega

theorem wind {k : Works} {c i : Nat} (t : WindTarget) (letter : (k.chan c).letter = some i) : R k (k.wind c i t).2 := by
  unfold Works.wind
  dsimp only
  split
  · rename_i ready
    exact M.windFrom _ t ready letter
  · rename_i reviewing
    obtain ⟨ready, same⟩ := Works.chan_endReview i reviewing
    obtain ⟨sealed_letter, sealed_state, -⟩ := (k.endReview c i).applySealing_kept i c
    exact M.trans (M.trans (M.endReview reviewing letter) (M.sealing _ i))
      (M.windFrom _ t (sealed_state.trans ready) (sealed_letter.trans (same.trans letter)))
  · exact M.refl k

theorem beginReview {k : Works} {c i : Nat} (o : StopOption) (ready : (k.chan c).state = .ready)
    (letter : (k.chan c).letter = some i) : R k (k.beginReview c i ((k.letter i).stopPoint o).1) := by
  unfold Works.beginReview
  exact M.of_ite (fun _ => M.raised _ _ _ _) fun beyond => M.trans (M.reviewStart o ready letter beyond) (M.grantIfIdle _)

/-! ### Letters and marks (R52 to R70) -/

theorem endLetterRaised {k : Works} {c i : Nat} (channel : c < Config.channelCount) (ready : (k.chan c).state = .ready)
    (holds : k.Holds c i) : R k (k.endLetter c i) := by
  unfold Works.endLetter
  dsimp only
  have ended := M.endLetter channel ready holds
  exact M.of_ite (fun _ => M.trans ended (M.raised _ _ _ _)) fun _ => ended

theorem truncateLetter {k : Works} {c i : Nat} (ready : (k.chan c).state = .ready) (letter : (k.chan c).letter = some i) :
    R k (k.truncateLetter c i) := by
  have exists_ : c < k.chans.length := Works.lt_of_state (by simp [ready])
  have reads : (k.modChan c Channel.cutOff).chan c = (k.chan c).cutOff := Works.chan_modChan_self _ _ _ exists_
  have cut : R k (k.modChan c Channel.cutOff) := M.modChan_fields rfl rfl rfl rfl rfl rfl rfl rfl
  unfold Works.truncateLetter
  refine M.trans (M.trans cut ?_) (M.sealing _ i)
  exact M.truncated (k := k.modChan c Channel.cutOff) (by rw [reads]; exact ready) (by rw [reads]; exact letter)

theorem settled {k : Works} {c : Nat} : R k (k.settled c) := by
  unfold Works.settled
  split
  · rename_i recording
    exact (M.span_releaseHeld fun _ => recording).moved
  · exact M.refl k

theorem capture {k : Works} {c i : Nat} {kind : MarkKind} (label : BitVec 16) (letter : (k.chan c).letter = some i)
    (room : (k.letter i).marksFull kind (k.capturePoint c i) = false)
    (entry : ((k.letter i).splitRun (k.capturePoint c i) k.nextEntry).isSome = true → k.freeEntries ≠ 0) :
    R k (k.capture c i kind label (k.capturePoint c i)) := by
  unfold Works.capture
  dsimp only
  split
  · rename_i edit split_
    exact M.trans (M.trans (M.markedSplit label letter room split_ (entry (by rw [split_]; rfl))) (M.entriesTaken _))
      (M.sealing _ i)
  · rename_i whole
    exact M.marked label letter room whole

end

end Works.Moves

end Sys2Proof.Machine

/-! PROOFS. The walk over the requests: each operation of `Works.Request` is made of moves (`Works.Moves.request`). -/

namespace Sys2Proof.Machine

/-! ### Transcription channels (R142 to R159) -/

/-- The play point moved, with the marks passed armed again (R157, R159). -/
theorem Channel.movePlay_kept (ch : Channel) (target : Nat) :
    ∃ play feed, ch.movePlay target = { ch with playPoint := play, feed := feed } ∧
      feed.map FeedRec.id = ch.feed.map FeedRec.id ∧ feedSlotsOf feed = feedSlotsOf ch.feed := by
  unfold Channel.movePlay
  split
  · exact ⟨_, _, rfl, rearmed_feed _ _ _⟩
  · exact ⟨_, _, rfl, rfl, rfl⟩

namespace Works.Moves

section
variable {R : Works → Works → Prop} (M : Works.Moves R)
include M

theorem playChan {k : Works} {c : Nat} (on : Bool) (opened : (k.chan c).state ≠ .closed)
    (plays : (k.chan c).kind ≠ .dictation) : R k (k.modChan c fun ch => ch.play on) := by
  refine M.modChan (f := fun ch => ch.play on) ?_
  unfold Channel.play
  dsimp only
  rw [Channel.prepareFeed_eq]
  split
  · rename_i p _
    obtain ⟨play, feed, same, ids, slots⟩ := (k.chan c).movePlay_kept p
    rw [same]
    exact .playback plays rfl (by simp [opened]) (nomatch ·) rfl rfl ids slots rfl
  · exact .playback plays rfl (by simp [opened]) (nomatch ·) rfl rfl rfl rfl rfl

/-- A channel that plays halts (R153, R158). -/
theorem haltState {k : Works} {c : Nat} (moving : (k.chan c).state = .playing ∨ (k.chan c).state = .starved) :
    R k (k.modChan c Channel.halt) := by
  refine M.modChan ⟨rfl, rfl, ?_, rfl, rfl, rfl, .inr ⟨rfl, fun _ h => ?_⟩, (nomatch ·), fun _ h => ?_⟩ <;>
    rcases moving with m | m <;> simp_all [Channel.halt]

theorem compareFeedLow (k : Works) (c : Nat) (before : Option Nat) : R k (k.compareFeedLow c before) := by
  unfold Works.compareFeedLow
  dsimp only
  split
  · exact M.of_ite (fun _ => M.raiseCount _ _ _) fun _ => M.refl k
  · exact M.refl k

theorem leaveEnded (k : Works) (c : Nat) : R k (k.modChan c Channel.leaveEnded) := by
  refine M.modChan ?_
  unfold Channel.leaveEnded
  split
  · rename_i ended
    exact ⟨rfl, rfl, by simp [ended], rfl, rfl, rfl, .inr ⟨rfl, by simp [ended]⟩, (nomatch ·), by simp [ended]⟩
  · exact .refl _

theorem stepTo {k : Works} {c target : Nat} (plays : (k.chan c).kind ≠ .dictation) : R k (k.stepTo c target) := by
  have moved : R k (k.modChan c fun ch => { ch with generation := ch.generation + 1 }.movePlay target) := by
    refine M.modChan ?_
    obtain ⟨play, feed, same, ids, slots⟩ := ({ k.chan c with generation := (k.chan c).generation + 1 } : Channel).movePlay_kept target
    rw [same]
    exact .playback plays rfl Iff.rfl id rfl rfl ids slots rfl
  exact M.trans (M.trans (M.trans moved (M.freeTail _ c)) (M.compareFeedLow _ c _)) (M.leaveEnded _ c)

/-- PLAY as its owner carries it out: a channel that is PLAYING or STARVED answers BUSY (R157). -/
theorem play {k : Works} {c : Nat} (on : Bool) (opened : (k.chan c).state ≠ .closed)
    (plays : (k.chan c).kind ≠ .dictation) : R k (k.play c on).2 := by
  unfold Works.play
  split
  · exact M.refl k
  · exact M.refl k
  · exact M.trans (M.playChan on opened plays) (M.grantIfIdle _)

theorem haltChan {k : Works} {c : Nat} : R k (k.haltChan c).2 := by
  unfold Works.haltChan
  split
  · rename_i playing
    exact M.haltState (.inl playing)
  · rename_i starved
    exact M.haltState (.inr starved)
  · exact M.refl k

theorem stepChan {k : Works} {c : Nat} (n : Int) (plays : (k.chan c).kind ≠ .dictation) : R k (k.stepChan c n).2 := by
  unfold Works.stepChan
  dsimp only
  split
  · exact M.refl k
  · exact M.refl k
  · split
    · exact M.stepTo plays
    · exact M.refl k

theorem feedChan {k : Works} {c : Nat} {rs : List FedRecord} (channel : c < Config.channelCount)
    (opened : (k.chan c).state ≠ .closed) (plays : (k.chan c).kind ≠ .dictation) (room : k.hasRoom c rs = true) :
    R k (k.feedChan c rs) :=
  M.trans (M.feed channel opened plays room) (M.grantIfIdle _)

end

end Works.Moves
end Sys2Proof.Machine

/-! PROOFS. Why the order of letters is not kept by every step from a state that meets it: PLAY on a transcription channel that
is RECORDING. No relation of 95_what_each_step_holds.md rules that channel out, and PLAY takes it to PLAYING with its growing
run (R157), while 2.1 lets none grow outside RECORDING. -/

namespace Sys2Proof.Machine

/-- A transcription channel in RECORDING with a growing run. -/
def Channel.recordsUnlettered : Channel :=
  { Channel.initial with
    kind := .transcription, state := .recording, det := { Detector.start with growing := some 0 } }

/-- The works of a part that has no letter, with that channel. -/
def Works.recordsUnlettered : Works :=
  { Works.start [] 0 with
    startup := .done, chans := (List.replicate Config.channelCount Channel.initial).set 0 Channel.recordsUnlettered }

/-- The part as a PLAY for that channel stands at the front of its receive queue. -/
def State.recordsUnlettered : State :=
  { State.reset with
    pending := [.reqPlay], works := Works.recordsUnlettered,
    link := { Link.start .mbaud1 with rx := [⟨0x34#8, 0#8, 0#8, [0#8]⟩] } }

theorem Works.recordsUnlettered_chans {ch : Channel} (h : ch ∈ Works.recordsUnlettered.chans) :
    ch = Channel.recordsUnlettered ∨ ch = Channel.initial :=
  (List.mem_or_eq_of_mem_set h).symm.imp_right List.eq_of_mem_replicate

theorem Works.recordsUnlettered_letters {l : Letter} (h : l ∈ Works.recordsUnlettered.letters) : l = Letter.freeRecord :=
  List.eq_of_mem_replicate h

theorem Works.recordsUnlettered_attached : Works.recordsUnlettered.LettersAttached := by
  intro c i inside
  have no_letter : (Works.recordsUnlettered.chan c).letter = none := by
    have there : Works.recordsUnlettered.chan c ∈ Works.recordsUnlettered.chans := by
      rw [Works.chan, List.getD_eq_getElem?_getD, List.getElem?_eq_getElem inside]
      exact List.getElem_mem _
    rcases Works.recordsUnlettered_chans there with h | h <;> rw [h] <;> rfl
  have is_free : (Works.recordsUnlettered.letter i).state = .free := by
    show ((List.replicate Config.letterCount Letter.freeRecord).getD i Letter.freeRecord).state = .free
    rw [getD_replicate]
    rfl
  rw [no_letter, is_free]
  simp

theorem Works.recordsUnlettered_accounted : Works.recordsUnlettered.Accounted := by
  refine ⟨rfl, rfl, fun ch h => ?_, fun l h => ?_, Works.recordsUnlettered_attached, fun j h => (nomatch h), rfl⟩
  · rcases Works.recordsUnlettered_chans h with rfl | rfl
    · simp [Channel.Sound, Channel.recordsUnlettered, Channel.initial]
    · exact Channel.initial_sound
  · rw [Works.recordsUnlettered_letters h]
    exact Letter.freeRecord_sound

theorem Works.recordsUnlettered_inOrder : Works.recordsUnlettered.LettersInOrder := by
  refine ⟨fun l h => ?_, List.nodup_nil, fun id h => (nomatch h), fun ch h => ?_, fun w h => (nomatch h), List.nodup_nil,
    fun c i entry width base h => (nomatch h)⟩
  · rw [Works.recordsUnlettered_letters h]
    exact Letter.freeRecord_inOrder
  · rcases Works.recordsUnlettered_chans h with rfl | rfl <;>
      simp [Works.GrowsAtWritePoint, Works.ReviewsInOrder, Channel.recordsUnlettered, Channel.initial, Detector.start]

/-- The PLAY is taken: the channel is PLAYING and its run still grows. -/
theorem State.recordsUnlettered_step :
    ∃ t, step State.recordsUnlettered = .next t ∧ (t.works.chan 0).state = .playing ∧
      (t.works.chan 0).det.growing = some 0 ∧ 0 < t.works.chans.length := ⟨_, rfl, rfl, rfl, by decide⟩

/-- Refutes O58: PLAY takes a transcription channel that is RECORDING, which the premises allow, to PLAYING with a growing
run. -/
theorem not_lettersStayInOrder : ¬ Obligations.LettersStayInOrder := by
  intro h
  obtain ⟨t, taken, playing, growing, exists_⟩ := State.recordsUnlettered_step
  obtain ⟨-, -, -, channels, -⟩ := h _ t Works.recordsUnlettered_accounted Works.recordsUnlettered_inOrder taken
  have there : t.works.chan 0 ∈ t.works.chans := by
    rw [Works.chan, List.getD_eq_getElem?_getD, List.getElem?_eq_getElem exists_]
    exact List.getElem_mem _
  have none_grows := (channels _ there).1.1 (by rw [playing]; decide)
  rw [growing] at none_grows
  exact nomatch none_grows

end Sys2Proof.Machine

/-! PROOFS. The walk over the requests, the frame boundary and the completions: what any command does to the works is a move, an
UNLOAD, or one of the operations of a start (`State.Next.works_change`). -/

namespace Sys2Proof.Machine

/-- The work of playback on channel `c`: a move that leaves it an open channel that is no dictation channel. -/
structure Works.Plays (R : Works → Works → Prop) (c : Nat) (k k' : Works) : Prop where
  moved : R k k'
  opened : (k'.chan c).state ≠ .closed
  plays : (k'.chan c).kind ≠ .dictation

/-- The marks at a position disarmed, with the records as they were (R153). -/
theorem disarmAt_kept (queue : List FeedRec) (p : Nat) :
    (disarmAt queue p).map FeedRec.id = queue.map FeedRec.id ∧ feedSlotsOf (disarmAt queue p) = feedSlotsOf queue := by
  induction queue with
  | nil => exact ⟨rfl, rfl⟩
  | cons r rest ih =>
    obtain ⟨ids, slots⟩ := ih
    have each : ∃ r', disarmAt (r :: rest) p = r' :: disarmAt rest p ∧ r'.id = r.id ∧ r'.slot = r.slot := by
      refine ⟨_, rfl, ?_⟩
      obtain ⟨id, pos, body⟩ := r
      cases body with
      | mark kind label armed =>
        cases armed with
        | true =>
          dsimp only
          split <;> exact ⟨rfl, rfl⟩
        | false => exact ⟨rfl, rfl⟩
      | _ => exact ⟨rfl, rfl⟩
    obtain ⟨r', same, id, slot⟩ := each
    have slots_cons (x : FeedRec) (xs : List FeedRec) : feedSlotsOf (x :: xs) = x.slot.toList ++ feedSlotsOf xs := by
      unfold feedSlotsOf
      rw [List.filterMap_cons]
      cases x.slot <;> rfl
    rw [same, List.map_cons, List.map_cons, ids, id, slots_cons, slots_cons, slots, slot]
    exact ⟨rfl, rfl⟩

namespace Works.Moves

section
variable {R : Works → Works → Prop} (M : Works.Moves R)
include M

/-! ### Requests -/

theorem clearOverflow (k : Works) (c : Nat) : R k (k.clearOverflow c) := by
  unfold Works.clearOverflow
  split
  · exact M.letter k _ _ ⟨rfl, rfl, rfl, rfl, rfl, rfl, rfl, List.Sublist.refl _, rfl⟩
  · exact M.refl k

/-- What a request does at the works is a move, or an UNLOAD. -/
theorem request {k k' : Works} (h : k.Request k') :
    R k k' ∨ ∃ c, c < Config.channelCount ∧ (k.chan c).state ≠ .closed ∧ (k.chan c).kind ≠ .dictation ∧
      k' = k.unloadChan c := by
  cases h with
  | unload m c names opened plays => exact .inr ⟨c, names.channel, opened, plays, rfl⟩
  | clearOverflow c => exact .inl (M.clearOverflow k c)
  | clearEvent e pending => exact .inl (M.clearEvent k e)
  | set chans values scan_done named => exact .inl (M.setChannels k chans values)
  | openLetter m c i job names closed free => exact .inl (M.openLetter job names.channel closed free)
  | attachLetter m c i job names closed found detached =>
    exact .inl (M.trans (M.joined names.channel closed found detached) (M.sealing _ i))
  | detachLetter m c i names ready holds => exact .inl (M.detachLetter names.channel ready holds)
  | endLetter m c i names ready holds => exact .inl (M.endLetterRaised names.channel ready holds)
  | discardChannel m c i names ready holds => exact .inl (M.discardChannel names.channel ready holds)
  | discardLetter i job scan_done found left => exact .inl (M.discardLetter found left)
  | truncateLetter m c i names ready holds => exact .inl (M.truncateLetter ready holds.letter)
  | record m c i mode names holds => exact .inl (M.record mode holds.letter)
  | stop m c i names holds => exact .inl (M.stopChan holds.letter)
  | wind m c i t names holds => exact .inl (M.wind t holds.letter)
  | review m c i o names holds ready => exact .inl (M.beginReview o ready holds.letter)
  | capture m c i kind label names holds room entry =>
    exact .inl (M.trans M.settled (M.capture label ((Works.settled_letter k c).trans holds.letter) room entry))
  | withoutMark m c i n names holds =>
    exact .inl (M.letter k i _ ⟨rfl, rfl, rfl, rfl, rfl, rfl, rfl, List.eraseIdx_sublist _ _, rfl⟩)
  | take st errs i job count r k' scan_done found taken => exact .inl (M.take scan_done found taken)
  | load m c names closed => exact .inl (M.load names.channel closed)
  | play m c on names opened plays => exact .inl (M.play on opened plays)
  | halt m c names opened plays => exact .inl M.haltChan
  | step m c n names opened plays => exact .inl (M.stepChan n plays)

theorem configure (s : State) (cfg : Configured) : R s.works (s.configure cfg).works := by
  have masked (k : Works) (v : Option (BitVec 32)) : R k (k.loadMask v) := by
    cases v
    · exact M.refl k
    · exact M.other ⟨rfl, rfl, rfl, rfl, rfl, rfl, rfl, rfl, rfl, rfl, rfl, rfl, rfl⟩
  have slots (k : Works) (v : Option Nat) : R k (k.loadSlotMark v) := by
    cases v
    · exact M.refl k
    · exact M.setSlotMark k _
  have entries (k : Works) (v : Option Nat) : R k (k.loadEntryMark v) := by
    cases v
    · exact M.refl k
    · exact M.setEntryMark k _
  exact M.trans (M.trans (masked _ cfg.mask) (slots _ cfg.slotMark)) (entries _ cfg.entryMark)

/-! ### Staged settings at a boundary (R94) -/

theorem loadAtBoundary (k : Works) (c : Nat) : R k (k.loadAtBoundary c) := by
  have loaded : R k (k.modChan c Channel.loadStaged) := M.modChan_fields rfl rfl rfl rfl rfl rfl rfl rfl
  have sealed_ (k : Works) (w : Bool) : R k (k.sealIfWindow c w) := by
    unfold Works.sealIfWindow
    exact M.of_ite (fun _ => M.sealChan k c) fun _ => M.refl k
  unfold Works.loadAtBoundary
  dsimp only
  have freed := M.trans (M.trans loaded (sealed_ _ (k.chan c).staged.window.isSome))
    (M.of_ite (p := (k.chan c).staged.backspace.isSome = true) (fun _ => M.freeTail _ c) fun _ => M.refl _)
  exact M.of_ite (fun _ => M.trans freed (M.prepareFeed _ c)) fun _ => freed

theorem endSending (k : Works) (c : Nat) : R k (k.modChan c Channel.endSending) :=
  M.modChan_fields rfl rfl rfl rfl rfl rfl rfl rfl

/-! ### Playback at a boundary (R152 to R156) -/

theorem plays_trans {a b d : Works} {c : Nat} (h : Works.Plays R c a b)
    (h' : (b.chan c).state ≠ .closed → (b.chan c).kind ≠ .dictation → Works.Plays R c b d) : Works.Plays R c a d :=
  ⟨M.trans h.moved (h' h.opened h.plays).moved, (h' h.opened h.plays).opened, (h' h.opened h.plays).plays⟩

theorem plays_refl {k : Works} {c : Nat} (opened : (k.chan c).state ≠ .closed) (plays : (k.chan c).kind ≠ .dictation) :
    Works.Plays R c k k := ⟨M.refl k, opened, plays⟩

theorem plays_modChan {k : Works} {c : Nat} {f : Channel → Channel} (opened : (k.chan c).state ≠ .closed)
    (plays : (k.chan c).kind ≠ .dictation) (opened' : (f (k.chan c)).state ≠ .closed)
    (review : (f (k.chan c)).state = .reviewing → (k.chan c).state = .reviewing) (kind : (f (k.chan c)).kind = (k.chan c).kind)
    (letter : (f (k.chan c)).letter = (k.chan c).letter) (capture : (f (k.chan c)).capture = (k.chan c).capture)
    (feed : (f (k.chan c)).feed.map FeedRec.id = (k.chan c).feed.map FeedRec.id ∧
      feedSlotsOf (f (k.chan c)).feed = feedSlotsOf (k.chan c).feed)
    (growing : (f (k.chan c)).det.growing = (k.chan c).det.growing) : Works.Plays R c k (k.modChan c f) := by
  refine ⟨M.modChan (.playback plays kind (by simp [opened, opened']) review letter capture feed.1 feed.2 growing), ?_, ?_⟩ <;>
    rcases k.chan_modChan_cases c f with e | e <;> rw [e]
  · exact opened'
  · exact opened
  · rwa [kind]
  · exact plays

theorem plays_raise {k : Works} {c : Nat} (opened : (k.chan c).state ≠ .closed) (plays : (k.chan c).kind ≠ .dictation)
    (kind : EventKind) (d : Nat) (detail : BitVec 32) (label : BitVec 16) :
    Works.Plays R c k (k.raiseWith kind d detail label) :=
  ⟨M.raise k kind d detail label, by simpa using opened, by simpa using plays⟩

theorem plays_reachMarks {k : Works} {c : Nat} (p : Nat) (opened : (k.chan c).state ≠ .closed)
    (plays : (k.chan c).kind ≠ .dictation) : Works.Plays R c k (k.reachMarks c p).1 := by
  unfold Works.reachMarks
  dsimp only
  split
  · exact M.plays_refl opened plays
  · rename_i label _
    have reached : Works.Plays R c k ((k.modChan c fun ch => { ch with feed := disarmAt ch.feed p }).raiseWith
        .markReached c (BitVec.ofNat 32 p) label) :=
      M.plays_trans (M.plays_modChan opened plays opened id rfl rfl rfl (disarmAt_kept _ p) rfl) fun opened' plays' =>
        M.plays_raise opened' plays' _ _ _ _
    split
    · exact M.plays_trans reached fun opened' plays' =>
        M.plays_modChan opened' plays' (by simp [Channel.halt]) (by simp [Channel.halt]) rfl rfl rfl ⟨rfl, rfl⟩ rfl
    · exact reached

theorem stall (k : Works) (c : Nat) : R k (k.stall c) := by
  unfold Works.stall
  dsimp only
  have zeros : R k (k.modChan c fun ch =>
      { ch with output := some zeroFrame, late := if (k.chan c).outputBegun then sat16 ch.late else ch.late }) :=
    M.modChan_fields rfl rfl rfl rfl rfl rfl rfl rfl
  exact M.of_ite (fun _ => M.trans zeros (M.raiseCount _ _ _)) fun _ => zeros

theorem starve {k : Works} {c : Nat} (opened : (k.chan c).state ≠ .closed) (plays : (k.chan c).kind ≠ .dictation) :
    R k (k.starve c) := by
  refine M.trans (b := k.modChan c _) ?_ (M.raised _ _ _ _)
  exact (M.plays_modChan opened plays (by simp) (by simp) rfl rfl rfl ⟨rfl, rfl⟩ rfl).moved

theorem playPosition {k : Works} {c : Nat} (p : Nat) (opened : (k.chan c).state ≠ .closed)
    (plays : (k.chan c).kind ≠ .dictation) : R k (k.playPosition c p) := by
  unfold Works.playPosition
  dsimp only
  split
  · refine M.trans (b := k.modChan c _) ?_ (M.raised _ _ _ _)
    exact (M.plays_modChan opened plays (by simp) (by simp) rfl rfl rfl ⟨rfl, rfl⟩ rfl).moved
  · split
    · rename_i side f _
      cases side <;> exact (M.plays_modChan opened plays opened id rfl rfl rfl ⟨rfl, rfl⟩ rfl).moved
    · split
      · exact M.of_ite (fun _ => M.stall k c) fun _ =>
          (M.plays_modChan opened plays opened id rfl rfl rfl ⟨rfl, rfl⟩ rfl).moved
      · exact M.starve opened plays

theorem playSteps {k : Works} {c : Nat} (opened : (k.chan c).state ≠ .closed) (plays : (k.chan c).kind ≠ .dictation) :
    R k (k.playSteps c) := by
  unfold Works.playSteps
  dsimp only
  split
  · exact M.starve opened plays
  · rename_i p _
    have skipped := M.plays_modChan (c := c)
      (f := fun ch => { ch with playPoint := some (skipFrom (k.chan c).feed (k.chan c).settings.trim p) }) opened plays
      opened id rfl rfl rfl ⟨rfl, rfl⟩ rfl
    have marked := M.plays_trans skipped fun opened' plays' =>
      M.plays_reachMarks (skipFrom (k.chan c).feed (k.chan c).settings.trim p) opened' plays'
    refine M.trans (M.trans (M.of_ite (fun _ => marked.moved) fun _ => ?_) (M.freeTail _ c)) (M.compareFeedLow _ c _)
    exact M.trans marked.moved (M.playPosition _ marked.opened marked.plays)

theorem starvedSteps {k : Works} {c : Nat} (opened : (k.chan c).state ≠ .closed) (plays : (k.chan c).kind ≠ .dictation) :
    R k (k.starvedSteps c) := by
  unfold Works.starvedSteps
  refine M.of_ite (fun _ => ?_) fun _ => M.modChan_fields rfl rfl rfl rfl rfl rfl rfl rfl
  have playing := M.plays_modChan (c := c) (f := fun ch => { ch with state := .playing }) opened plays (nomatch ·)
    (nomatch ·) rfl rfl rfl ⟨rfl, rfl⟩ rfl
  exact M.trans playing.moved (M.playSteps playing.opened playing.plays)

end

end Works.Moves

end Sys2Proof.Machine

/-! PROOFS. The walk over the frame boundary and the completions, and what any step does to the works
(`State.Next.works_change`). -/

namespace Sys2Proof.Machine

theorem Works.keepsPoints_endSending (k : Works) (c : Nat) : k.KeepsPoints (k.modChan c Channel.endSending) :=
  Works.keepsPoints_modChan ⟨rfl, rfl, rfl, rfl, rfl, rfl⟩

namespace Works.Moves

section
variable {R : Works → Works → Prop} (M : Works.Moves R)
include M

/-! ### The boundary of one channel (R80, R89, R94, R152) -/

/-- What every channel does first at a boundary: staged settings load, and a frame that was SENDING has gone out. -/
theorem beginBoundary (k : Works) (c : Nat) : R k ((k.loadAtBoundary c).modChan c Channel.endSending) :=
  M.trans (M.loadAtBoundary k c) (M.endSending _ c)

theorem transcriptionBoundary {k : Works} {c : Nat} (kind : (k.chan c).kind = .transcription) :
    R k (k.transcriptionBoundary c) := by
  have begun := M.beginBoundary k c
  have points := (k.keepsPoints_loadAtBoundary c).trans (Works.keepsPoints_endSending _ c)
  have plays : ((((k.loadAtBoundary c).modChan c Channel.endSending)).chan c).kind ≠ .dictation := by
    rw [points.kind, kind]
    decide
  unfold Works.transcriptionBoundary
  dsimp only
  split
  · rename_i playing
    exact M.trans begun (M.playSteps (by simp [playing]) plays)
  · rename_i starved
    exact M.trans begun (M.starvedSteps (by simp [starved]) plays)
  · exact begun

/-- A review that goes on to the next position or comes to its stop point there (R73, R89). -/
theorem reviewNext {k : Works} {c i p : Nat} (f : Channel → Channel) (reviewing : (k.chan c).state = .reviewing)
    (letter : (k.chan c).letter = some i) (play : (k.chan c).playPoint = some p)
    (next : (f (k.chan c)).playPoint = some (p + 1)) (stop : (f (k.chan c)).stopPoint = (k.chan c).stopPoint)
    (calm : (k.chan c).Calm { f (k.chan c) with playPoint := (k.chan c).playPoint }) :
    ((k.chan c).stopPoint ≠ some (p + 1) → R k (k.modChan c f)) ∧
      ((k.chan c).stopPoint = some (p + 1) → R k ((k.modChan c f).reachStop c i (p + 1))) := by
  refine ⟨fun beyond => M.reviewOn f reviewing play beyond next calm, fun reached => ?_⟩
  have ended := M.reviewOver (q := p + 1) (fun ch => { (f ch).clearReview with state := .ready }) reviewing letter
    (fun p' play' => .inr (by rw [play] at play'; exact congrArg (· + 1) (Option.some.inj play'))) rfl
    (.reviewEnded reviewing rfl calm.kind calm.letter calm.capture calm.feedIds calm.feedSlots
      (calm.growing.imp_right And.left))
  have same : ((k.modChan c f).modLetter i fun l => { l with cursor := p + 1 }).modChan c
        (fun ch => { ch.clearReview with state := .ready }) =
      (k.modLetter i fun l => { l with cursor := p + 1 }).modChan c fun ch => { (f ch).clearReview with state := .ready } :=
    Works.modChan_modChan (k.modLetter i fun l => { l with cursor := p + 1 }) c f _
  unfold Works.reachStop
  dsimp only
  rw [same]
  exact M.trans (M.trans ended (M.raised _ _ _ _)) (M.sealing _ i)

/-- Step 3 of R89 and what follows it at the stop point. -/
theorem reviewStep {k : Works} {c i p : Nat} (reviewing : (k.chan c).state = .reviewing)
    (letter : (k.chan c).letter = some i) (play : (k.chan c).playPoint = some p) :
    R k (match ((k.reviewPosition c i p).chan c).playPoint, ((k.reviewPosition c i p).chan c).stopPoint with
      | some q, some stop => if q = stop then (k.reviewPosition c i p).reachStop c i stop else k.reviewPosition c i p
      | _, _ => k.reviewPosition c i p) := by
  have exists_ : c < k.chans.length := Works.lt_of_state (by simp [reviewing])
  have goes {f : Channel → Channel} (moves : k.reviewPosition c i p = k.modChan c f)
      (next : (f (k.chan c)).playPoint = some (p + 1)) (stop : (f (k.chan c)).stopPoint = (k.chan c).stopPoint)
      (calm : (k.chan c).Calm { f (k.chan c) with playPoint := (k.chan c).playPoint }) :
      R k (match ((k.reviewPosition c i p).chan c).playPoint, ((k.reviewPosition c i p).chan c).stopPoint with
        | some q, some stop => if q = stop then (k.reviewPosition c i p).reachStop c i stop else k.reviewPosition c i p
        | _, _ => k.reviewPosition c i p) := by
    obtain ⟨on, reached⟩ := M.reviewNext (i := i) f reviewing letter play next stop calm
    rw [moves, Works.chan_modChan_self _ _ _ exists_, next, stop]
    cases at_stop : (k.chan c).stopPoint with
    | none => exact on (by rw [at_stop]; exact (nomatch ·))
    | some q =>
      dsimp only
      refine M.of_ite (fun same => ?_) fun beyond => on ?_
      · rw [← same]
        exact reached (by rw [at_stop, same])
      · rw [at_stop]
        exact fun same => beyond (Option.some.inj same).symm
  have stays {k' : Works} (waits : k.reviewPosition c i p = k') (moved : R k k')
      (state : (k'.chan c).state = .reviewing) (letter' : (k'.chan c).letter = some i)
      (play' : (k'.chan c).playPoint = some p) :
      R k (match ((k.reviewPosition c i p).chan c).playPoint, ((k.reviewPosition c i p).chan c).stopPoint with
        | some q, some stop => if q = stop then (k.reviewPosition c i p).reachStop c i stop else k.reviewPosition c i p
        | _, _ => k.reviewPosition c i p) := by
    rw [waits, play']
    cases (k'.chan c).stopPoint with
    | none => exact moved
    | some stop =>
      dsimp only
      refine M.of_ite (fun same => ?_) fun _ => moved
      refine M.trans (M.trans (M.trans moved (M.reviewOver (q := stop)
        (fun ch => { ch.clearReview with state := .ready }) state letter' (fun p' at_ => .inl ?_) rfl
        (.reviewEnded state rfl rfl rfl rfl rfl rfl (.inr rfl)))) (M.raised _ _ _ _)) (M.sealing _ i)
      rw [play'] at at_
      exact same.symm.trans (Option.some.inj at_)
  cases filled : (k.chan c).filledSide p with
  | some sent =>
    obtain ⟨side, f⟩ := sent
    refine goes (f := fun ch => ch.sendFilled side f p) (by rw [Works.reviewPosition, filled]) rfl ?_ ?_
    · cases side <;> rfl
    · cases side <;> exact .of_fields rfl rfl rfl rfl rfl rfl rfl rfl
  | none =>
    have cases_ : k.reviewPosition c i p = (k.modChan c fun ch => ch.sendZeros p) ∨ k.reviewPosition c i p = k.stall c := by
      rw [Works.reviewPosition, filled]
      dsimp only
      split
      · exact .inl rfl
      · exact .inr rfl
    rcases cases_ with zeros | waits
    · exact goes zeros rfl rfl (.of_fields rfl rfl rfl rfl rfl rfl rfl rfl)
    · have reads : ((k.stall c).chan c).state = (k.chan c).state ∧ ((k.stall c).chan c).letter = (k.chan c).letter ∧
          ((k.stall c).chan c).playPoint = (k.chan c).playPoint := by
        unfold Works.stall Works.raiseCount
        dsimp only
        split
        · rw [Works.chan_raiseWith, Works.chan_modChan_self _ _ _ exists_]
          exact ⟨rfl, rfl, rfl⟩
        · rw [Works.chan_modChan_self _ _ _ exists_]
          exact ⟨rfl, rfl, rfl⟩
      obtain ⟨state, letter', play'⟩ := reads
      exact stays waits (M.stall k c) (state.trans reviewing) (letter'.trans letter) (play'.trans play)

theorem reviewBoundary {k : Works} {c : Nat} (reviewing : (k.chan c).state = .reviewing) : R k (k.reviewBoundary c) := by
  have begun := M.beginBoundary k c
  have points := (k.keepsPoints_loadAtBoundary c).trans (Works.keepsPoints_endSending _ c)
  unfold Works.reviewBoundary
  dsimp only
  split
  · rename_i i p letter play
    exact M.trans begun (M.reviewStep ((points.state c).trans reviewing) letter play)
  · exact begun

/-- The boundary of a RECORDING channel (R80): settings load, held frames may be released, and the completed frame is decided or
capture starts. -/
theorem recordingBoundary {k : Works} {c : Nat} (recording : (k.chan c).state = .recording) (locked : Bool) :
    R k (k.recordingBoundary c locked) := by
  have loaded : R k (k.modChan c fun ch => ch.loadStaged.takePendingMode) := by
    refine M.modChan (f := fun ch => ch.loadStaged.takePendingMode) ?_
    rw [Channel.takePendingMode_eq]
    exact .of_fields rfl rfl rfl rfl rfl rfl rfl rfl
  have loaded_state : ((k.modChan c fun ch => ch.loadStaged.takePendingMode).chan c).state = .recording := by
    rw [Works.chan_modChan_self _ _ _ (Works.lt_of_state (by simp [recording])), Channel.takePendingMode_eq]
    exact recording
  have sealed_ : R k ((k.modChan c fun ch => ch.loadStaged.takePendingMode).sealIfWindow c (k.chan c).staged.window.isSome) := by
    unfold Works.sealIfWindow
    exact M.of_ite (fun _ => M.trans loaded (M.sealChan _ c)) fun _ => loaded
  have sealed_state := (Works.keepsSettings_sealIfWindow (k.modChan c fun ch => ch.loadStaged.takePendingMode) c
    (k.chan c).staged.window.isSome).state c
  have ready : R k (k.recordingLoad c) := by
    unfold Works.recordingLoad
    dsimp only
    exact M.of_ite (fun _ => M.trans sealed_ (M.span_releaseHeld fun _ => sealed_state.trans loaded_state).moved)
      fun _ => sealed_
  unfold Works.recordingBoundary
  dsimp only
  refine M.of_ite (fun _ => ready) fun goes => M.of_ite (fun _ => ?_) fun _ => ?_
  · have taken : R (k.recordingLoad c) ((k.recordingLoad c).modChan c fun ch => { ch with filling := [] }) :=
      M.modChan_fields rfl rfl rfl rfl rfl rfl rfl rfl
    refine M.trans (M.trans ready taken) (M.span_decideFrame (fun _ => ?_) locked _).moved
    rcases Works.chan_modChan_cases (k.recordingLoad c) c fun ch => { ch with filling := [] } with e | e <;> rw [e] <;>
      exact not_not.1 goes
  · refine M.trans ready (M.modChan ?_)
    exact ⟨rfl, rfl, Iff.rfl, rfl, rfl, rfl, .inl rfl, fun h => ⟨h, .inr ⟨rfl, rfl⟩⟩, fun _ => .inl⟩

theorem otherBoundary (k : Works) (c : Nat) (locked : Bool) : R k (k.otherBoundary c locked) := by
  unfold Works.otherBoundary
  split
  · rename_i recording
    have sent : ((k.modChan c Channel.endSending).chan c).state = .recording :=
      ((Works.keepsPoints_endSending k c).state c).trans recording
    exact M.trans (M.endSending k c) (M.recordingBoundary sent locked)
  · rename_i reviewing
    exact M.reviewBoundary reviewing
  · exact M.beginBoundary k c

/-! ### The boundary of all channels (R164) -/

theorem channels_map {k : Works} {f : Channel → Channel} (h : ∀ ch : Channel, ch.Calm (f ch)) :
    R k { k with chans := k.chans.map f } :=
  M.channels k (List.forall₂_map_right_iff.2 (List.forall₂_same.2 fun ch _ => h ch))

theorem boundary (k : Works) (locked : Bool) : R k (k.boundary locked) := by
  have ended : R k k.endOutputs := M.channels_map fun ch => .of_fields rfl rfl rfl rfl rfl rfl rfl rfl
  unfold Works.boundary Works.eachChan
  dsimp only
  refine M.trans (M.trans (M.trans ended (M.foldl (fun k c => ?_) _ _)) (M.foldl (fun k c => ?_) _ _)) (M.grantIfIdle _)
  · split
    · exact M.transcriptionBoundary ‹_›
    · exact M.refl k
  · split
    · exact M.refl k
    · exact M.otherBoundary k c locked

theorem handSamples (k : Works) (l : Line) (rx : List (Option Sample)) : R k (k.handSamples l rx) := by
  refine M.channels k (List.forall₂_iff_get.2 ⟨by simp, fun c h h' => ?_⟩)
  simp only [List.get_eq_getElem, List.getElem_mapIdx]
  unfold Channel.takeSample
  split
  · exact .of_fields rfl rfl rfl rfl rfl rfl rfl rfl
  · exact .refl _

theorem syncOnce (s : State) (rx : List (Option Sample)) : R s.works (s.syncOnce rx).works :=
  M.of_ite (fun _ => M.trans (M.handSamples s.works s.line rx) (M.boundary _ _)) fun _ => M.handSamples _ _ _

/-! ### Completions (R104 to R109) -/

theorem drainCheck (k : Works) (c i : Nat) : R k (k.drainCheck c i) := by
  unfold Works.drainCheck
  dsimp only
  refine M.of_ite (fun drained => ?_) fun _ => M.refl k
  obtain ⟨draining, empty⟩ := drained
  refine M.trans (b := k.modChan c _) (M.modChan ?_) (M.raised _ _ _ _)
  exact ⟨rfl, rfl, by simp [draining], rfl, rfl, rfl, .inr ⟨rfl, by simp [draining]⟩, by simp,
    fun _ _ => .inr (List.isEmpty_iff.1 empty)⟩

theorem encodeDone {k : Works} {c i entry : Nat} {width : Width} {base : Sample} {w : WaitFrame} (carry : Sample)
    (job : k.job = some (.encode c i entry width base)) (served : (k.chan c).servedFrame = some w) :
    R k (k.encodeDone c i entry carry).1 :=
  M.trans (M.trans (M.trans (M.coded carry job served) (M.sealing _ i)) (M.drainCheck _ c i)) (M.grantIfIdle _)

theorem decodeStale (k : Works) : R k k.decodeStale := M.trans (M.dropJob k) (M.grantIfIdle _)

theorem filled (k : Works) (c : Nat) (side : Side) (f : Frame) :
    R k ({ k with job := none }.modChan c fun ch => ch.fillSide side f) := by
  refine M.trans (M.dropJob k) (M.modChan (f := fun ch => ch.fillSide side f) ?_)
  unfold Channel.fillSide
  split
  · cases side <;> exact .of_fields rfl rfl rfl rfl rfl rfl rfl rfl
  · exact .refl _

theorem decoded {k : Works} {c entry slot : Nat} {source : JobSource} (side : Side) (got : Option (List Byte))
    (held : k.jobSlot c source entry = some slot) : R k (k.decoded c source entry side slot got) := by
  cases got with
  | some bytes => exact M.trans (M.filled k c side _) (M.grantIfIdle _)
  | none =>
    refine M.trans (M.trans (M.filled k c side zeroFrame) (M.lose ?_)) (M.grantIfIdle _)
    rw [← held]
    cases source with
    | letter i => rfl
    | feedQueue =>
      have feed : (({ k with job := none }.modChan c fun ch => ch.fillSide side zeroFrame).chan c).feed = (k.chan c).feed := by
        have kept : ((k.chan c).fillSide side zeroFrame).feed = (k.chan c).feed := by
          unfold Channel.fillSide
          split
          · cases side <;> rfl
          · rfl
        rcases Works.chan_modChan_cases { k with job := none } c fun ch => ch.fillSide side zeroFrame with e | e <;> rw [e]
        · exact kept
        · rfl
      unfold Works.jobSlot
      dsimp only
      rw [feed]

end

end Works.Moves

/-! ### What a step does to the works -/

/-- The works after a step: a move of every relation of `Works.Moves`, an UNLOAD, or an operation of a start (R122 to R127,
R191, R193). -/
inductive Works.Change (k : Works) : Works → Prop
  | moved {k' : Works} (moves : ∀ R : Works → Works → Prop, Works.Moves R → R k k') : Change k k'
  | unloaded (c : Nat) (channel : c < Config.channelCount) (opened : (k.chan c).state ≠ .closed)
      (plays : (k.chan c).kind ≠ .dictation) : Change k (k.unloadChan c)
  | started : Change k (Works.start k.factory k.freeDraws)
  | loaded (scan : k.startup = .loading) : Change k { k with startup := .writing, defects := factoryDefects k.factory }
  | written (scan : k.startup = .writing) : Change k { k with startup := .checking, checked := 0, scanBad := [] }
  | checked (st : Store) (errs : List CellError) (cause : Cause) (upTo : Nat) (scan : k.startup = .checking) :
      Change k (k.check st errs cause upTo)
  | kept (scan_done : k.startup = .done) :
      Change k (k.restarted.raiseDevice .startDone (BitVec.ofNat 32 Cause.restartKeep.code))

/-- What a tick does to the works is to raise flags (R172 to R174). -/
theorem State.tickOnce_works {R : Works → Works → Prop} (M : Works.Moves R) (s : State) : R s.works s.tickOnce.works := by
  have raised (k : Works) (kind : EventKind) (d : BitVec 32) : R k (k.raiseDevice kind d) := M.raise _ _ _ _ _
  unfold State.tickOnce
  dsimp only
  split
  · split <;> exact M.refl _
  · split
    · exact M.of_ite (fun _ => raised _ _ _) fun _ => M.refl _
    · unfold State.windowTick
      dsimp only
      split
      · unfold Works.windowEvent
        exact M.of_ite (fun _ => raised _ _ _) fun _ => M.of_ite (fun _ => raised _ _ _) fun _ => M.refl _
      · exact M.refl _

theorem State.Answer.works_change {m : Message} {s t : State} {r : Reply} (h : s.Answer m (r, t)) : s.works.Change t.works := by
  cases h with
  | @works _ k' answer =>
    cases answer with
    | refused _ => exact .moved fun R M => M.refl _
    | marksFull c i =>
      exact .moved fun R M =>
        M.letter s.works i (fun l => { l with overflow := true })
          ⟨rfl, rfl, rfl, rfl, rfl, rfl, rfl, List.Sublist.refl _, rfl⟩
    | reported => exact .moved fun R M => M.refl _
    | carried accepts size request =>
      by_cases unloads : ∃ c, c < Config.channelCount ∧ (s.works.chan c).state ≠ .closed ∧
          (s.works.chan c).kind ≠ .dictation ∧ k' = s.works.unloadChan c
      · obtain ⟨c, channel, opened, plays, rfl⟩ := unloads
        exact .unloaded c channel opened plays
      · exact .moved fun R M => (M.request request).resolve_right unloads
  | status => exact .moved fun R M => M.refl _
  | configure body cfg => exact .moved fun R M => M.configure s cfg
  | restart => exact .moved fun R M => M.refl _
  | bind => exact .moved fun R M => M.refl _
  | feed c rs body size names opened plays room =>
    exact .moved fun R M => M.feedChan names.channel opened plays room

theorem State.Next.works_change {s t : State} (h : s.Next t) : s.works.Change t.works := by
  cases h with
  | same => exact .moved fun R M => M.refl _
  | idle =>
    rw [State.idle_works]
    exact .moved fun R M => M.refl _
  | powerOn => exact .started
  | held =>
    exact .moved fun R M => M.trans (M.channels_map (f := fun ch => { ch with output := none }) fun ch =>
      .of_fields rfl rfl rfl rfl rfl rfl rfl rfl) (M.dropJob _)
  | release => exact .started
  | loadingEnd scan => exact .loaded scan
  | writingEnd scan => exact .written scan
  | check got scan =>
    dsimp only
    exact .checked s.store got.errs s.lastCause got.upTo scan
  | makeFull => exact .started
  | makeKeep scan_done => exact .kept scan_done
  | receive chars =>
    rw [State.receive_eq]
    exact .moved fun R M => M.refl _
  | framing => exact .moved fun R M => M.refl _
  | lineBreak => exact .moved fun R M => M.refl _
  | lineBreakEnd => exact .moved fun R M => M.refl _
  | request m rest r t front answer => exact answer.works_change
  | sync rx => exact .moved fun R M => M.syncOnce s rx
  | tick => exact .moved fun R M => s.tickOnce_works M
  | encoded c i entry width base w job served => exact .moved fun R M => M.encodeDone _ job served
  | stale => exact .moved fun R M => M.decodeStale _
  | decoded c source entry side generation slot got job current held => exact .moved fun R M => M.decoded side got held

end Sys2Proof.Machine

/-! PROOFS. What a TAKE is made of (08_export.md): items from the front of the stream one by one, and at the end of the
stream the letter's record. An invariant follows the walk over the items (`Works.TakeMoves.takeFrom`) instead of the walk's
result, so that it need not say what the sealed list holds. -/

namespace Sys2Proof.Machine

/-- A relation between works that holds across every elementary move of a TAKE from letter `i`. -/
structure Works.TakeMoves (R : Works → Works → Prop) (i : Nat) : Prop where
  refl : ∀ k, R k k
  trans : ∀ {a b c : Works}, R a b → R b c → R a c
  other : ∀ {k k' : Works}, k.SameHoldings k' → R k k'
  sealedMark : ∀ {k : Works} {e : Entry} {m : Mark} {ms : List Mark} {rest : List SealedEntry},
    (k.letter i).sealedList = ⟨e, m :: ms⟩ :: rest → R k (k.modLetter i fun l => { l with sealedList := ⟨e, ms⟩ :: rest })
  run : ∀ {k : Works} {e : Entry} {kind : RunKind} {n : Nat} {rest : List SealedEntry},
    (k.letter i).sealedList = ⟨e, []⟩ :: rest → e.body = .run kind n →
    R k (k.modLetter i fun l => { l with sealedList := rest }).returnEntry
  passed : ∀ {k : Works} {e : Entry} {slot : Nat} {rest : List SealedEntry},
    (k.letter i).sealedList = ⟨e, []⟩ :: rest → e.body = .speech (some slot) →
    R k { (k.modLetter i fun l => { l with sealedList := rest }).returnEntry with freePool := k.freePool ++ [slot] }
  failed : ∀ {k : Works} {e : Entry} {slot : Nat} {rest : List SealedEntry},
    (k.letter i).sealedList = ⟨e, []⟩ :: rest → e.body = .speech (some slot) →
    R k ((k.modLetter i fun l => { l with sealedList := rest }).returnEntry.retireAtRun slot)
  mark : ∀ {k : Works} {m : Mark} {ms : List Mark}, (k.letter i).sealedList = [] → (k.letter i).state = .sealing →
    (k.letter i).marks = m :: ms → R k (k.modLetter i fun l => { l with marks := ms })
  freed : ∀ {k : Works}, (k.letter i).endTaken = true ∨ ((k.letter i).sealedList = [] ∧ (k.letter i).state = .sealing) →
    R k (k.modLetter i fun _ => Letter.freeRecord)

/-- Works at the end of a letter's stream, and those whose END item has been taken (R139). -/
def Works.TookEnd (k k' : Works) (i : Nat) : Prop :=
  (k.letter i).sealedList = [] ∧ (k.letter i).state = .sealing ∧ k' = k.modLetter i fun l => { l with endTaken := true }

namespace Works.TakeMoves

section
variable {R : Works → Works → Prop} {i : Nat} (T : Works.TakeMoves R i)
include T

theorem takeEntry {k : Works} {st : Store} {errs : List CellError} {e : Entry} {rest : List SealedEntry} {t : Taken}
    (front : (k.letter i).sealedList = ⟨e, []⟩ :: rest) (h : k.takeEntry st errs i e rest = .ok (some t)) :
    R k t.works ∧ t.last = false := by
  unfold Works.takeEntry at h
  dsimp only at h
  split at h
  · rename_i kind n body
    simp only [Except.ok.injEq, Option.some.injEq] at h
    subst h
    exact ⟨T.run front body, rfl⟩
  · rename_i slot body
    split at h
    · rename_i got _
      simp only [Except.ok.injEq, Option.some.injEq] at h
      subst h
      cases got with
      | some bytes => exact ⟨T.passed front body, rfl⟩
      | none => exact ⟨T.failed front body, rfl⟩
    · simp at h
  · simp at h

/-- One item: the stream goes on, or its END has been taken. -/
theorem takeItem {k : Works} {st : Store} {errs : List CellError} {t : Taken} (h : k.takeItem st errs i = .ok (some t)) :
    (R k t.works ∧ t.last = false) ∨ (k.TookEnd t.works i ∧ t.last = true) := by
  unfold Works.takeItem at h
  dsimp only at h
  split at h
  · rename_i e m ms rest front
    simp only [Except.ok.injEq, Option.some.injEq] at h
    subst h
    exact .inl ⟨T.sealedMark front, rfl⟩
  · rename_i e rest front
    exact .inl (T.takeEntry front h)
  · rename_i empty
    split at h
    · rename_i ending
      simp only [Except.ok.injEq, Option.some.injEq] at h
      subst h
      cases marks : (k.letter i).marks with
      | cons m ms =>
        rw [Works.takeEnding_mark marks]
        exact .inl ⟨T.mark empty ending marks, rfl⟩
      | nil =>
        rw [Works.takeEnding_last marks]
        exact .inr ⟨⟨empty, ending, rfl⟩, rfl⟩
    · simp at h

/-- Up to `n` items. -/
theorem takeItems {st : Store} {errs : List CellError} {n : Nat} {k k' : Works} {items : List (List Byte)}
    (h : Works.takeItems st errs i n k = .ok (k', items)) : R k k' ∨ ∃ before, R k before ∧ before.TookEnd k' i := by
  induction n generalizing k items with
  | zero =>
    simp only [Works.takeItems, Except.ok.injEq, Prod.mk.injEq] at h
    exact .inl (h.1 ▸ T.refl k)
  | succ n ih =>
    rw [Works.takeItems] at h
    split at h
    · simp at h
    · simp only [Except.ok.injEq, Prod.mk.injEq] at h
      exact .inl (h.1 ▸ T.refl k)
    · rename_i t item
      rcases T.takeItem item with ⟨moved, goes_on⟩ | ⟨ended, last⟩
      · rw [goes_on, if_neg Bool.false_ne_true] at h
        split at h
        · simp at h
        · rename_i k1 items1 more
          simp only [Except.ok.injEq, Prod.mk.injEq] at h
          rcases ih (h.1 ▸ more) with on | ⟨before, reached, took⟩
          · exact .inl (T.trans moved on)
          · exact .inr ⟨before, T.trans moved reached, took⟩
      · rw [last, if_pos rfl] at h
        simp only [Except.ok.injEq, Prod.mk.injEq] at h
        exact .inr ⟨k, T.refl k, h.1 ▸ ended⟩

end

end Works.TakeMoves

theorem Works.SameHoldings.refl (k : Works) : k.SameHoldings k :=
  ⟨rfl, rfl, rfl, rfl, rfl, rfl, rfl, rfl, rfl, rfl, rfl, rfl, rfl⟩

theorem Works.SameHoldings.trans {a b c : Works} (h : a.SameHoldings b) (h' : b.SameHoldings c) : a.SameHoldings c :=
  ⟨h'.startup.trans h.startup, h'.chans.trans h.chans, h'.letters.trans h.letters, h'.freeEntries.trans h.freeEntries,
    h'.nextEntry.trans h.nextEntry, h'.freePool.trans h.freePool, h'.factory.trans h.factory, h'.defects.trans h.defects,
    h'.unlisted.trans h.unlisted, h'.job.trans h.job, h'.checked.trans h.checked, h'.scanBad.trans h.scanBad,
    h'.events.trans h.events⟩

/-- Arming a low mark changes nothing that is held. -/
theorem Works.sameHoldings_freed (k : Works) : k.SameHoldings k.slotsFreed ∧ k.SameHoldings k.entriesFreed := by
  rw [Works.slotsFreed_eq, Works.entriesFreed_eq]
  exact ⟨⟨rfl, rfl, rfl, rfl, rfl, rfl, rfl, rfl, rfl, rfl, rfl, rfl, rfl⟩,
    ⟨rfl, rfl, rfl, rfl, rfl, rfl, rfl, rfl, rfl, rfl, rfl, rfl, rfl⟩⟩

/-- The comparisons after a TAKE arm low marks and do nothing else (R140). -/
theorem Works.sameHoldings_afterFrees (k before : Works) : k.SameHoldings (k.afterFrees before) := by
  unfold Works.afterFrees
  dsimp only
  have slots : k.SameHoldings (if before.freePool.length < k.freePool.length then k.slotsFreed else k) := by
    split
    · exact k.sameHoldings_freed.1
    · exact .refl k
  split
  · exact slots.trans (Works.sameHoldings_freed _).2
  · exact slots

/-- A TAKE that is taken (R131 to R140). -/
theorem Works.TakeMoves.takeFrom {R : Works → Works → Prop} {i : Nat} (T : Works.TakeMoves R i) {k k' : Works} {st : Store}
    {errs : List CellError} {count : Nat} {r : Reply} (exists_ : i < k.letters.length)
    (h : k.takeFrom st errs i count = .ok (r, k')) : R k k' := by
  unfold Works.takeFrom at h
  dsimp only at h
  split at h
  · simp at h
  · rename_i k1 items took
    simp only [Except.ok.injEq, Prod.mk.injEq] at h
    obtain ⟨-, rfl⟩ := h
    have armed := k1.sameHoldings_afterFrees k
    have letters : (k1.afterFrees k).letter i = k1.letter i := by rw [Works.letter, armed.letters, Works.letter]
    rw [Works.freeIfEnded, letters]
    rcases T.takeItems took with moved | ⟨before, moved, empty, ending, rfl⟩
    · split
      · rename_i ended
        exact T.trans (T.trans moved (T.other armed)) (T.freed (.inl (by rw [letters]; exact ended)))
      · exact T.trans moved (T.other armed)
    · have at_end : i < before.letters.length := Works.lt_of_letter_state (by simp [ending])
      rw [if_pos (by rw [Works.letter_modLetter_self _ _ _ at_end])]
      refine T.trans (T.trans moved (T.freed (.inr ⟨empty, ending⟩))) (T.other ?_)
      refine ⟨armed.startup, armed.chans, ?_, armed.freeEntries, armed.nextEntry, armed.freePool, armed.factory,
        armed.defects, armed.unlisted, armed.job, armed.checked, armed.scanBad, armed.events⟩
      show (Works.afterFrees _ k).letters.set i Letter.freeRecord = before.letters.set i Letter.freeRecord
      rw [armed.letters]
      exact List.set_set ..

end Sys2Proof.Machine

/-! PROOFS. Tables and flags at every step: the pending flags stand in POLL order and none stands during a scan, the defect
table keeps to 64 entries and each mark table to 16 marks (R61, R118, R185 to R187). -/

namespace Sys2Proof.Machine

/-- What a move keeps of tables and flags. -/
structure Works.KeepsTables (k k' : Works) : Prop where
  startup : k'.startup = k.startup
  factory : k'.factory = k.factory
  ordered : k.EventsOrdered → k'.EventsOrdered
  quiet : k.QuietWhileStarting → k'.QuietWhileStarting
  defects : k.defects.length ≤ Config.defectCount → k'.defects.length ≤ Config.defectCount
  marks : (∀ l ∈ k.letters, l.marks.length ≤ Config.markCount) → ∀ l ∈ k'.letters, l.marks.length ≤ Config.markCount

theorem Works.KeepsTables.trans {a b c : Works} (h : a.KeepsTables b) (h' : b.KeepsTables c) : a.KeepsTables c :=
  ⟨h'.startup.trans h.startup, h'.factory.trans h.factory, h'.ordered ∘ h.ordered, h'.quiet ∘ h.quiet,
    h'.defects ∘ h.defects, h'.marks ∘ h.marks⟩

/-- A change that touches none of start-up state, tables and flags. -/
theorem Works.KeepsTables.of_same {k k' : Works} (startup : k'.startup = k.startup) (factory : k'.factory = k.factory)
    (events : k'.events = k.events) (defects : k'.defects = k.defects) (letters : k'.letters = k.letters) :
    k.KeepsTables k' where
  startup := startup
  factory := factory
  ordered := by rw [Works.EventsOrdered, Works.EventsOrdered, events]; exact id
  quiet := by rw [Works.QuietWhileStarting, Works.QuietWhileStarting, events, startup]; exact id
  defects := by rw [defects]; exact id
  marks := by rw [letters]; exact id

theorem Works.KeepsTables.refl (k : Works) : k.KeepsTables k := .of_same rfl rfl rfl rfl rfl

/-- A change of one letter record whose mark table keeps its room. -/
theorem Works.KeepsTables.of_set {k k' : Works} {i : Nat} {l : Letter} (startup : k'.startup = k.startup)
    (factory : k'.factory = k.factory) (events : k'.events = k.events) (defects : k'.defects = k.defects)
    (letters : k'.letters = k.letters.set i l)
    (fits : (k.letter i).marks.length ≤ Config.markCount → l.marks.length ≤ Config.markCount) : k.KeepsTables k' where
  startup := startup
  factory := factory
  ordered := by rw [Works.EventsOrdered, Works.EventsOrdered, events]; exact id
  quiet := by rw [Works.QuietWhileStarting, Works.QuietWhileStarting, events, startup]; exact id
  defects := by rw [defects]; exact id
  marks := fun each m hm => by
    rw [letters] at hm
    rcases List.mem_or_eq_of_mem_set hm with old | rfl
    · exact each m old
    · refine fits ?_
      unfold Works.letter
      rw [List.getD_eq_getElem?_getD]
      cases found : k.letters[i]? with
      | none => simp [Letter.freeRecord]
      | some l => exact each l (List.mem_of_getElem? found)

theorem Works.keepsTables_modLetter {k : Works} {i : Nat} {f : Letter → Letter}
    (fits : (f (k.letter i)).marks.length ≤ (k.letter i).marks.length) : k.KeepsTables (k.modLetter i f) :=
  .of_set rfl rfl rfl rfl rfl fits.trans

theorem Works.keepsTables_modChan (k : Works) (c : Nat) (f : Channel → Channel) : k.KeepsTables (k.modChan c f) :=
  .of_same rfl rfl rfl rfl rfl

theorem Works.keepsTables_given (k : Works) (entries : Nat) (slots : List Nat) : k.KeepsTables (k.given entries slots) :=
  .of_same rfl rfl rfl rfl rfl

/-- A raise keeps the order of the flags, and sets none during a scan (R185). -/
theorem Works.keepsTables_raiseWith (k : Works) (kind : EventKind) (c : Nat) (d : BitVec 32) (l : BitVec 16) :
    k.KeepsTables (k.raiseWith kind c d l) := by
  by_cases scan : k.startup = .done
  · rw [Works.raiseWith_done scan]
    exact ⟨rfl, rfl, putEvent_pairwise _, fun _ open_ => absurd scan open_, id, id⟩
  · rw [Works.raiseWith_quiet scan]
    exact .refl k

theorem Works.keepsTables_slotsTaken (k : Works) : k.KeepsTables k.slotsTaken := by
  unfold Works.slotsTaken
  split
  · exact .trans (b := { k with slotArmed := false }) (.of_same rfl rfl rfl rfl rfl) (Works.keepsTables_raiseWith _ _ _ _ _)
  · exact .refl k

theorem Works.keepsTables_entriesTaken (k : Works) : k.KeepsTables k.entriesTaken := by
  unfold Works.entriesTaken
  split
  · exact .trans (b := { k with entryArmed := false }) (.of_same rfl rfl rfl rfl rfl) (Works.keepsTables_raiseWith _ _ _ _ _)
  · exact .refl k

theorem Works.keepsTables_freed (k : Works) : k.KeepsTables k.slotsFreed ∧ k.KeepsTables k.entriesFreed := by
  rw [Works.slotsFreed_eq, Works.entriesFreed_eq]
  exact ⟨.of_same rfl rfl rfl rfl rfl, .of_same rfl rfl rfl rfl rfl⟩

/-- The table takes a retired slot only while it has room (R118). -/
theorem Works.keepsTables_retireAtRun (k : Works) (slot : Nat) : k.KeepsTables (k.retireAtRun slot) := by
  refine .trans ?_ (Works.keepsTables_raiseWith _ _ _ _ _)
  unfold Works.retire
  split
  · rename_i room
    exact ⟨rfl, rfl, id, id, fun _ => by simpa using room, id⟩
  · exact .of_same rfl rfl rfl rfl rfl

theorem Works.keepsTables_afterPlan (k : Works) (p : Plan) : k.KeepsTables (k.afterPlan p) := by
  unfold Works.afterPlan
  dsimp only
  have pools : k.KeepsTables { k with
      freeEntries := k.freeEntries - p.need
      freePool := k.freePool ++ p.freed
      nextEntry := k.nextEntry + 2 } := .of_same rfl rfl rfl rfl rfl
  have slots : k.KeepsTables (if p.freed.isEmpty then { k with
        freeEntries := k.freeEntries - p.need
        freePool := k.freePool ++ p.freed
        nextEntry := k.nextEntry + 2 }
      else Works.slotsFreed { k with
        freeEntries := k.freeEntries - p.need
        freePool := k.freePool ++ p.freed
        nextEntry := k.nextEntry + 2 }) := by
    split
    · exact pools
    · exact pools.trans (Works.keepsTables_freed _).1
  split
  · exact (slots.trans (Works.keepsTables_entriesTaken _)).trans (Works.keepsTables_freed _).2
  · exact slots.trans (Works.keepsTables_entriesTaken _)

@[simp] theorem marksAfter_length (mode : RecMode) (w : Nat) (ms : List Mark) : (marksAfter mode w ms).length = ms.length := by
  cases mode <;> simp [marksAfter, shiftMarks]

theorem Works.keepsTables_placeEntry {k k' : Works} {i id : Nat} {mode : RecMode} {body : EntryBody} {grew : Bool}
    (h : k.placeEntry i mode body = .placed k' id grew) : k.KeepsTables k' := by
  obtain ⟨-, -, -, -, rfl⟩ := Works.placeEntry_placed h
  exact (Works.keepsTables_modLetter (by simp [Letter.withPlan])).trans (Works.keepsTables_afterPlan _ _)

theorem Works.keepsTables_applySealing (k : Works) (i : Nat) : k.KeepsTables (k.applySealing i) := by
  have sealed_ (moved kept : List Entry) : k.KeepsTables (k.modLetter i fun l => l.sealEntries moved kept) :=
    Works.keepsTables_modLetter (List.length_filter_le _ _)
  unfold Works.applySealing
  dsimp only
  split
  · split
    · exact .refl k
    · split
      · exact ((sealed_ _ _).trans (Works.keepsTables_modChan _ _ _)).trans (Works.keepsTables_raiseWith _ _ _ _ _)
      · exact (sealed_ _ _).trans (Works.keepsTables_modChan _ _ _)
  · exact .refl k

theorem Works.keepsTables_spanMoves : Works.SpanMoves Works.KeepsTables where
  refl := .refl
  trans := .trans
  other h := .of_same h.startup h.factory h.events h.defects h.letters
  raise := Works.keepsTables_raiseWith
  channels k chans h := .of_same rfl rfl rfl rfl rfl
  letter k i g calm := Works.keepsTables_modLetter calm.marks.length_le
  sealing := Works.keepsTables_applySealing
  placeRun _ _ placed := (Works.keepsTables_placeEntry placed).trans (Works.keepsTables_modChan _ _ _)
  placeSpeech f _ _ _ placed := (Works.keepsTables_placeEntry placed).trans (Works.keepsTables_modChan _ _ _)
  grow mode _ _ _ _ _ _ := by
    rw [Works.giveBack_eq_given]
    exact (Works.keepsTables_modLetter (by simp [Letter.withGrowth])).trans (Works.keepsTables_given _ _ _)

/-! ### The other moves -/

theorem insertMark_length (m : Mark) (ms : List Mark) : (insertMark m ms).length = ms.length + 1 := by
  induction ms with
  | nil => rfl
  | cons f rest ih =>
    rw [insertMark]
    split
    · rw [List.length_cons, ih, List.length_cons]
    · rfl

/-- A mark captured past check 6 fits its table (R62, R64). -/
theorem Letter.captureMark_fits {l : Letter} {kind : MarkKind} {p : Nat} (room : l.marksFull kind p = false)
    (label : BitVec 16) (fits : l.marks.length ≤ Config.markCount) :
    (l.captureMark kind label p).length ≤ Config.markCount := by
  unfold Letter.captureMark
  split
  · rwa [List.length_map]
  · rename_i new
    rw [insertMark_length]
    simp only [Letter.marksFull, new, Bool.not_false, Bool.and_true, decide_eq_false_iff_not, Nat.not_le] at room
    exact room

theorem Works.keepsTables_withMark {k : Works} {c i : Nat} {kind : MarkKind} (label : BitVec 16)
    (room : (k.letter i).marksFull kind (k.capturePoint c i) = false) :
    k.KeepsTables ((k.modLetter i fun l => l.withMark kind label (k.capturePoint c i)).modChan c Channel.endGrowth) :=
  .of_set rfl rfl rfl rfl rfl (Letter.captureMark_fits room label)

theorem Works.keepsTables_codeEntry (k : Works) (c i entry : Nat) : k.KeepsTables (k.codeEntry c i entry).1 := by
  unfold Works.codeEntry
  split
  · refine .trans ?_ (Works.keepsTables_slotsTaken _)
    exact .of_set rfl rfl rfl rfl rfl fun fits => fits
  · exact .trans (Works.keepsTables_modLetter le_rfl) (Works.keepsTables_raiseWith _ _ _ _ _)

theorem Works.keepsTables_loseEntry (k : Works) (c : Nat) (source : JobSource) (entry : Nat) :
    k.KeepsTables (k.loseEntry c source entry) := by
  unfold Works.loseEntry
  split
  · exact .trans (Works.keepsTables_modLetter le_rfl) (Works.keepsTables_applySealing _ _)
  · exact Works.keepsTables_modChan _ _ _

theorem Works.keepsTables_discardLetter (k : Works) (i : Nat) : k.KeepsTables (k.discardLetter i) := by
  unfold Works.discardLetter
  rw [Works.giveBack_eq_given]
  exact (Works.keepsTables_modLetter (Nat.zero_le _)).trans (Works.keepsTables_given _ _ _)

theorem Works.keepsTables_takeMoves (i : Nat) : Works.TakeMoves Works.KeepsTables i where
  refl := .refl
  trans := .trans
  other := Works.keepsTables_spanMoves.other
  sealedMark _ := Works.keepsTables_modLetter le_rfl
  run _ _ := .of_set rfl rfl rfl rfl rfl fun fits => fits
  passed _ _ := .of_set rfl rfl rfl rfl rfl fun fits => fits
  failed _ _ := by
    refine .trans ?_ (Works.keepsTables_retireAtRun _ _)
    exact .of_set rfl rfl rfl rfl rfl fun fits => fits
  mark _ _ marks := Works.keepsTables_modLetter (by rw [marks]; exact Nat.le_succ _)
  freed _ := Works.keepsTables_modLetter (Nat.zero_le _)

theorem Works.keepsTables_freeTail (k : Works) (c : Nat) : k.KeepsTables (k.freeTail c) := by
  unfold Works.freeTail
  dsimp only
  split
  · exact .refl k
  · rw [Works.giveBack_eq_given]
    exact (Works.keepsTables_modChan _ _ _).trans (Works.keepsTables_given _ _ _)

theorem Works.keepsTables_moves : Works.Moves Works.KeepsTables where
  toSpanMoves := Works.keepsTables_spanMoves
  clearEvent k e := ⟨rfl, rfl, fun ordered => ordered.filter _, fun quiet scan => by
    show k.events.filter _ = []
    rw [quiet scan, List.filter_nil], id, id⟩
  freeTail := Works.keepsTables_freeTail
  reviewOn f _ _ _ _ _ := Works.keepsTables_modChan _ _ _
  reviewOver f _ _ _ _ _ := (Works.keepsTables_modLetter le_rfl).trans (Works.keepsTables_modChan _ _ _)
  reviewStart _ _ _ _ := .of_same rfl rfl rfl rfl rfl
  grantEncode k c _ := by
    unfold Works.grantEncode
    dsimp only
    split
    · exact .refl k
    · exact .of_same rfl rfl rfl rfl rfl
  decodeJob _ _ _ _ _ _ _ := .of_same rfl rfl rfl rfl rfl
  coded _ _ _ := (Works.keepsTables_codeEntry _ _ _ _).trans (.of_same rfl rfl rfl rfl rfl)
  dropJob _ := .of_same rfl rfl rfl rfl rfl
  lose _ := (Works.keepsTables_loseEntry _ _ _ _).trans (Works.keepsTables_retireAtRun _ _)
  cursorTo _ _ _ := Works.keepsTables_modLetter le_rfl
  openLetter _ _ _ _ := (Works.keepsTables_modLetter (Nat.zero_le _)).trans (Works.keepsTables_modChan _ _ _)
  joined _ _ _ _ := (Works.keepsTables_modLetter le_rfl).trans (Works.keepsTables_modChan _ _ _)
  detachLetter _ _ _ := (Works.keepsTables_modChan _ _ _).trans (Works.keepsTables_modLetter le_rfl)
  endLetter _ _ _ := (Works.keepsTables_modChan _ _ _).trans (Works.keepsTables_modLetter (List.length_filter_le _ _))
  discardChannel _ _ _ := (Works.keepsTables_modChan _ _ _).trans (Works.keepsTables_discardLetter _ _)
  discardLetter _ _ := Works.keepsTables_discardLetter _ _
  truncated _ _ := by
    rw [Works.giveBack_eq_given]
    exact (Works.keepsTables_modLetter (List.length_filter_le _ _)).trans (Works.keepsTables_given _ _ _)
  marked label _ room _ := Works.keepsTables_withMark label room
  markedSplit label _ room _ _ := by
    refine (Works.keepsTables_withMark label room).trans ?_
    exact .of_set rfl rfl rfl rfl rfl fun fits => fits
  take _ found took := (Works.keepsTables_takeMoves _).takeFrom (Works.lt_of_findJob found) took
  load _ _ := Works.keepsTables_modChan _ _ _
  feed _ _ _ _ := by
    unfold Works.takeForFeed
    dsimp only
    refine .trans ?_ (Works.keepsTables_entriesTaken _)
    split
    · exact .of_same rfl rfl rfl rfl rfl
    · refine .trans ?_ (Works.keepsTables_slotsTaken _)
      exact .of_same rfl rfl rfl rfl rfl

/-! ### Every step -/

/-- The invariant of the flags (R185 to R187). -/
structure Works.Tidy (k : Works) : Prop where
  ordered : k.EventsOrdered
  quiet : k.QuietWhileStarting

theorem Works.KeepsTables.tablesFit {k k' : Works} (h : k.KeepsTables k') (fit : k.TablesFit) : k'.TablesFit :=
  ⟨by rw [h.factory]; exact fit.1, h.defects fit.2.1, h.marks fit.2.2⟩

theorem Works.KeepsTables.tidy {k k' : Works} (h : k.KeepsTables k') (tidy : k.Tidy) : k'.Tidy :=
  ⟨h.ordered tidy.ordered, h.quiet tidy.quiet⟩

theorem Works.Tidy.of_no_events {k : Works} (h : k.events = []) : k.Tidy :=
  ⟨by rw [Works.EventsOrdered, h]; exact .nil, fun _ => h⟩

theorem Works.keepsTables_unloadChan (k : Works) (c : Nat) : k.KeepsTables (k.unloadChan c) := by
  unfold Works.unloadChan
  rw [Works.giveBack_eq_given]
  exact (Works.keepsTables_modChan _ _ _).trans (Works.keepsTables_given _ _ _)

/-- CHECKING retires into the table while it has room. -/
theorem Works.checkTo_defects_fit {k : Works} (fits : k.defects.length ≤ Config.defectCount) (st : Store)
    (errs : List CellError) (upTo : Nat) : (k.checkTo st errs upTo).defects.length ≤ Config.defectCount := by
  rw [Works.checkTo_eq]
  show (k.defects ++ _).length ≤ Config.defectCount
  rw [List.length_append, List.length_map, List.length_take]
  have limit : Config.defectCount = 64 := rfl
  omega

theorem Works.endScan_tidy {k : Works} (silent : k.events = []) (cause : Cause) : (k.endScan cause).Tidy := by
  unfold Works.endScan
  generalize k.goodSlots = good
  split
  · exact (Works.keepsTables_raiseWith _ _ _ _ _).tidy (.of_no_events silent)
  · exact .of_no_events silent

theorem Works.endScan_tablesFit {k : Works} (fit : k.TablesFit) (cause : Cause) : (k.endScan cause).TablesFit := by
  unfold Works.endScan
  generalize k.goodSlots = good
  split
  · exact (Works.keepsTables_raiseWith _ _ _ _ _).tablesFit fit
  · exact fit

theorem Works.check_tidy {k : Works} (tidy : k.Tidy) (scan : k.startup = .checking) (st : Store) (errs : List CellError)
    (cause : Cause) (upTo : Nat) : (k.check st errs cause upTo).Tidy := by
  have silent : (k.checkTo st errs upTo).events = [] := by
    rw [Works.checkTo_eq]
    exact tidy.quiet (by rw [scan]; exact (nomatch ·))
  unfold Works.check
  dsimp only
  split
  · exact Works.endScan_tidy silent cause
  · exact .of_no_events silent

theorem Works.check_tablesFit {k : Works} (fit : k.TablesFit) (st : Store) (errs : List CellError)
    (cause : Cause) (upTo : Nat) : (k.check st errs cause upTo).TablesFit := by
  obtain ⟨factory, defects, marks⟩ := fit
  have checked : (k.checkTo st errs upTo).TablesFit :=
    ⟨by rw [Works.checkTo_eq]; exact factory, Works.checkTo_defects_fit defects st errs upTo,
      by rw [Works.checkTo_eq]; exact marks⟩
  unfold Works.check
  dsimp only
  split
  · exact Works.endScan_tablesFit checked cause
  · exact checked

theorem Works.Change.tidy {k k' : Works} (h : k.Change k') (tidy : k.Tidy) : k'.Tidy := by
  cases h with
  | moved moves => exact (moves _ Works.keepsTables_moves).tidy tidy
  | unloaded c channel opened plays => exact (k.keepsTables_unloadChan c).tidy tidy
  | started => exact .of_no_events rfl
  | loaded scan => exact .of_no_events (tidy.quiet (by rw [scan]; exact (nomatch ·)))
  | written scan => exact .of_no_events (tidy.quiet (by rw [scan]; exact (nomatch ·)))
  | checked st errs cause upTo scan => exact Works.check_tidy tidy scan st errs cause upTo
  | kept scan_done => exact (Works.keepsTables_raiseWith _ _ _ _ _).tidy (.of_no_events rfl)

theorem Works.Change.tablesFit {k k' : Works} (h : k.Change k') (fit : k.TablesFit) : k'.TablesFit := by
  obtain ⟨factory, defects, marks⟩ := id fit
  cases h with
  | moved moves => exact (moves _ Works.keepsTables_moves).tablesFit fit
  | unloaded c channel opened plays => exact (k.keepsTables_unloadChan c).tablesFit fit
  | started => exact Works.start_tablesFit _ factory
  | loaded scan =>
    refine ⟨factory, ?_, marks⟩
    show (factoryDefects k.factory).length ≤ 64
    rw [factoryDefects, List.length_map]
    omega
  | written scan => exact fit
  | checked st errs cause upTo scan => exact Works.check_tablesFit fit st errs cause upTo
  | kept scan_done =>
    refine (Works.keepsTables_raiseWith _ _ _ _ _).tablesFit ⟨factory, defects, fun l hl => ?_⟩
    obtain ⟨old, at_old, rfl⟩ := List.mem_map.1 hl
    exact marks old at_old

/-- A step changes the works as `Works.Change` says. -/
theorem step_works_change {s t : State} (h : step s = .next t) : s.works.Change t.works := by
  obtain ⟨queue, next⟩ := step_next h
  exact next.works_change

/-- Settles O56: flags are put in their place of the POLL order, cleared ones leave it, and no move but those of a part that
is DONE sets one. -/
theorem eventsStayInOrder : Obligations.EventsStayInOrder := fun _ _ ordered quiet h =>
  have tidy := (step_works_change h).tidy ⟨ordered, quiet⟩
  ⟨tidy.ordered, tidy.quiet⟩

end Sys2Proof.Machine

/-! PROOFS. Link, line port and monitor at every step: counts and counters keep their ranges, no timeslot is bound twice, and
the queues keep to their sizes (R164, R170, R171, R174, R179, R180). -/

namespace Sys2Proof.Machine

/-! ### Counts of the link (R179) -/

theorem sat8_le (n : Nat) : sat8 n ≤ 255 := Nat.min_le_right _ _

theorem Link.CountsFit.discard {l : Link} (fit : l.CountsFit) : l.discard.CountsFit := by
  obtain ⟨framing, overrun, discarded⟩ := fit
  refine ⟨framing, overrun, ?_⟩
  show (if l.receiver.uncounted then sat8 l.discarded else l.discarded) ≤ 255
  split
  · exact sat8_le _
  · exact discarded

theorem Link.CountsFit.char {l : Link} (fit : l.CountsFit) (b : Byte) : (l.char b).CountsFit := by
  obtain ⟨framing, overrun, discarded⟩ := id fit
  unfold Link.char
  split
  · split <;> exact fit
  · exact fit
  · unfold Link.checkLength
    split
    · exact ⟨framing, overrun, sat8_le _⟩
    · split
      · exact ⟨framing, sat8_le _, sat8_le _⟩
      · exact fit
  · unfold Link.collect
    dsimp only
    split
    · split <;> exact fit
    · exact fit
  · exact fit

theorem Link.CountsFit.receive {s : State} (fit : s.link.CountsFit) (chars : List Byte) :
    (s.receive chars).link.CountsFit := by
  have all (l : Link) (h : l.CountsFit) : (chars.foldl Link.char l).CountsFit := by
    induction chars generalizing l with
    | nil => exact h
    | cons b rest ih => exact ih _ (h.char b)
  unfold State.receive
  split
  · exact all _ fit
  · exact fit

/-! ### Bindings (R169, R170) -/

/-- No timeslot that `dir` reads is bound to two channels. -/
def Line.ExclusiveIn (l : Line) (dir : Binding → Option Nat) : Prop :=
  ∀ c d slot, c < Config.channelCount → d < Config.channelCount → c ≠ d →
    ¬(dir (l.binding c) = some slot ∧ dir (l.binding d) = some slot)

theorem Line.exclusive_iff (l : Line) : l.Exclusive ↔ l.ExclusiveIn Binding.rx ∧ l.ExclusiveIn Binding.tx :=
  ⟨fun h => ⟨fun c d slot hc hd apart => (h c d slot hc hd apart).1, fun c d slot hc hd apart => (h c d slot hc hd apart).2⟩,
    fun h c d slot hc hd apart => ⟨h.1 c d slot hc hd apart, h.2 c d slot hc hd apart⟩⟩

theorem Line.Exclusive.of_bindings {l l' : Line} (h : l.Exclusive) (same : l'.bindings = l.bindings) : l'.Exclusive := by
  have each (c : Nat) : l'.binding c = l.binding c := by rw [Line.binding, same, Line.binding]
  intro c d slot hc hd apart
  rw [each, each]
  exact h c d slot hc hd apart

theorem Line.free_of_not_heldElsewhere {l : Line} {c d slot : Nat} {dir : Binding → Option Nat}
    (free : l.heldElsewhere c dir (some slot) = false) (hd : d < Config.channelCount) (apart : d ≠ c) :
    dir (l.binding d) ≠ some slot := fun same => by
  have held : l.heldElsewhere c dir (some slot) = true := by
    rw [Line.heldElsewhere, Option.isSome_some, Bool.true_and, List.any_eq_true]
    exact ⟨d, List.mem_range.2 hd, by simp [apart, same]⟩
  rw [free] at held
  exact nomatch held

/-- BIND checks each direction against the other channels (R169, checks 5 and 6). -/
theorem Line.ExclusiveIn.bind {l : Line} {dir : Binding → Option Nat} (h : l.ExclusiveIn dir) {c : Nat} {b : Binding}
    (free : l.heldElsewhere c dir (dir b) = false) : ({ l with bindings := l.bindings.set c b } : Line).ExclusiveIn dir := by
  have reads (d : Nat) : ({ l with bindings := l.bindings.set c b } : Line).binding d = l.binding d ∨
      (d = c ∧ ({ l with bindings := l.bindings.set c b } : Line).binding d = b) := by
    unfold Line.binding
    by_cases same : d = c
    · subst same
      by_cases inside : d < l.bindings.length
      · exact .inr ⟨rfl, by simp [List.getD_eq_getElem?_getD, inside]⟩
      · exact .inl (by simp [inside])
    · exact .inl (by simp [List.getD_eq_getElem?_getD, List.getElem?_set_ne (Ne.symm same)])
  have clear {d slot : Nat} (hd : d < Config.channelCount) (apart : d ≠ c) (new : dir b = some slot) :
      dir (l.binding d) ≠ some slot := Line.free_of_not_heldElsewhere (new ▸ free) hd apart
  rintro d e slot hd he apart ⟨at_d, at_e⟩
  rcases reads d with old_d | ⟨rfl, new_d⟩ <;> rcases reads e with old_e | ⟨rfl, new_e⟩
  · rw [old_d] at at_d
    rw [old_e] at at_e
    exact h d e slot hd he apart ⟨at_d, at_e⟩
  · rw [old_d] at at_d
    rw [new_e] at at_e
    exact clear hd apart at_e at_d
  · rw [new_d] at at_d
    rw [old_e] at at_e
    exact clear he (Ne.symm apart) at_d at_e
  · exact apart rfl

/-! ### The monitor (R171 to R174) -/

theorem Monitor.Sound.sync {m : Monitor} (h : m.Sound) : m.sync.Sound := by
  obtain ⟨ticks, window, syncs, good, drift, tolerance, locked, absent⟩ := h
  unfold Monitor.sync
  split
  · rename_i was
    refine ⟨Nat.zero_le _, Nat.zero_lt_succ 7999, Nat.zero_le _, good, drift, tolerance, ?_, fun h => nomatch h⟩
    rw [was] at locked
    exact ⟨fun h => (nomatch h), fun h => (nomatch locked.2 h)⟩
  · rename_i present
    exact ⟨Nat.zero_le _, window, Nat.min_le_right _ _, good, drift, tolerance, locked, fun h => absurd h present⟩

theorem Monitor.Sound.countTick {m : Monitor} (h : m.Sound) : m.countTick.Sound := by
  obtain ⟨-, window, syncs, good, drift, tolerance, locked, absent⟩ := h
  exact ⟨Nat.min_le_right _ _, window, syncs, good, drift, tolerance, locked, absent⟩

theorem Monitor.Sound.loseSyncs {m : Monitor} (h : m.Sound) : m.loseSyncs.Sound := by
  obtain ⟨ticks, window, syncs, good, drift, tolerance, locked, absent⟩ := h
  exact ⟨ticks, Nat.zero_lt_succ 7999, Nat.zero_le _, Nat.zero_le _, drift, tolerance,
    ⟨fun h => (nomatch h), fun h => (nomatch h)⟩, fun _ => ⟨rfl, rfl⟩⟩

/-- The end of a window: the drift of at most 65535 syncs stays below 57536, and LOCKED comes of two good windows. -/
theorem Monitor.Sound.endWindow {m : Monitor} (ticks : m.ticks ≤ 4) (syncs : m.windowSyncs ≤ 65535)
    (drift : m.maxDrift ≤ 57535) (tolerance : m.tolerance ≤ 40) : m.endWindow.Sound := by
  unfold Monitor.endWindow
  generalize judged : (if m.isGood then min (m.good + 1) 2 else 0) = good
  have small : good ≤ 2 := by
    rw [← judged]
    split
    · exact Nat.min_le_right _ _
    · exact Nat.zero_le _
  have bounded : m.drift.natAbs ≤ 57535 := by
    unfold Monitor.drift
    omega
  refine ⟨ticks, Nat.zero_lt_succ 7999, Nat.zero_le _, small, Nat.max_le.2 ⟨drift, bounded⟩, tolerance, ?_, fun _ => ⟨rfl, rfl⟩⟩
  dsimp only
  split
  · rename_i two
    exact ⟨fun _ => two, fun _ => rfl⟩
  · rename_i fewer
    exact ⟨fun h => (nomatch h), fun h => absurd h fewer⟩

theorem Monitor.Sound.loadTolerance {m : Monitor} (h : m.Sound) (tolerance : Option Nat) :
    (m.loadTolerance tolerance).Sound := by
  obtain ⟨ticks, window, syncs, good, drift, small, locked, absent⟩ := id h
  cases tolerance with
  | none => exact h
  | some v => exact ⟨ticks, window, syncs, good, drift, Nat.min_le_right _ _, locked, absent⟩

/-! ### The ports at every step -/

/-- The registers of link, line port and monitor in order. -/
structure State.PortsSound (s : State) : Prop where
  exclusive : s.line.Exclusive
  counts : s.link.CountsFit
  counter : s.line.CounterFits
  monitor : s.monitor.Sound

theorem State.PortsSound.tickOnce {s : State} (h : s.PortsSound) : s.tickOnce.PortsSound := by
  obtain ⟨exclusive, counts, counter, monitor⟩ := h
  have ticked := monitor.countTick
  have lapsed : s.line.lapse.Exclusive := exclusive.of_bindings rfl
  unfold State.tickOnce
  dsimp only
  split
  · split
    · exact ⟨lapsed, counts, counter, ticked⟩
    · exact ⟨exclusive, counts, counter, ticked⟩
  · rename_i present
    split
    · exact ⟨lapsed, counts, counter, ticked.loseSyncs⟩
    · obtain ⟨ticks, window, syncs, good, drift, tolerance, locked, absent⟩ := ticked
      unfold State.windowTick
      dsimp only
      split
      · exact ⟨exclusive, counts, counter, .endWindow ticks syncs drift tolerance⟩
      · rename_i more
        exact ⟨exclusive, counts, counter,
          ⟨ticks, Nat.lt_of_not_le more, syncs, good, drift, tolerance, locked, fun h => absurd h present⟩⟩

theorem State.PortsSound.answer {m : Message} {s t : State} {r : Reply} (h : s.Answer m (r, t)) (sound : s.PortsSound) :
    t.PortsSound := by
  obtain ⟨exclusive, counts, counter, monitor⟩ := sound
  cases h with
  | works answer => exact ⟨exclusive, counts, counter, monitor⟩
  | status body size =>
    obtain ⟨ticks, window, syncs, good, drift, tolerance, locked, absent⟩ := monitor
    exact ⟨exclusive, ⟨Nat.zero_le _, Nat.zero_le _, Nat.zero_le _⟩, counter,
      ⟨ticks, window, syncs, good, Nat.zero_le _, tolerance, locked, absent⟩⟩
  | configure body cfg accepts size scan_done => exact ⟨exclusive, counts, counter, monitor.loadTolerance _⟩
  | restart kind => exact ⟨exclusive, counts, counter, monitor⟩
  | bind c b body size names rx tx =>
    obtain ⟨in_rx, in_tx⟩ := s.line.exclusive_iff.1 exclusive
    exact ⟨(Line.exclusive_iff _).2 ⟨in_rx.bind rx, in_tx.bind tx⟩, counts, counter, monitor⟩
  | feed c rs body size names opened plays room => exact ⟨exclusive, counts, counter, monitor⟩

theorem State.PortsSound.start (straps : Straps) (cause : Cause) (s : State) : (s.startWith straps cause).PortsSound :=
  ⟨Line.start_exclusive, Link.start_countsFit _, Nat.zero_lt_succ 159, Monitor.start_sound (by decide)⟩

theorem State.Next.portsSound {s t : State} (h : s.Next t) (sound : s.PortsSound) : t.PortsSound := by
  obtain ⟨exclusive, counts, counter, monitor⟩ := id sound
  have restarted : s.link.restarted.CountsFit := Link.start_countsFit s.link.rate
  cases h with
  | same => exact sound
  | idle =>
    rw [State.idle_eq]
    exact ⟨exclusive, counts, counter, monitor⟩
  | powerOn straps =>
    obtain ⟨exclusive, counts, counter, monitor⟩ := State.PortsSound.start straps .powerOn s
    exact ⟨exclusive, counts, counter, monitor⟩
  | held => exact ⟨exclusive.of_bindings rfl, counts, counter, monitor⟩
  | release straps =>
    obtain ⟨exclusive, counts, counter, monitor⟩ := State.PortsSound.start straps .resetLine s
    exact ⟨exclusive, counts, counter, monitor⟩
  | loadingEnd => exact ⟨exclusive, counts, counter, monitor⟩
  | writingEnd => exact ⟨exclusive, counts, counter, monitor⟩
  | check => exact ⟨exclusive, counts, counter, monitor⟩
  | makeFull =>
    exact ⟨Line.start_exclusive.of_bindings rfl, restarted, Nat.zero_lt_succ 159, Monitor.start_sound (by decide)⟩
  | makeKeep =>
    obtain ⟨ticks, window, syncs, good, drift, tolerance, locked, absent⟩ := monitor
    exact ⟨exclusive, restarted, counter, Monitor.start_sound tolerance⟩
  | receive chars =>
    rw [State.receive_eq]
    exact ⟨exclusive, counts.receive chars, counter, monitor⟩
  | framing =>
    obtain ⟨framing, overrun, discarded⟩ := counts.discard
    exact ⟨exclusive, ⟨sat8_le _, overrun, discarded⟩, counter, monitor⟩
  | lineBreak =>
    obtain ⟨framing, overrun, discarded⟩ := counts.discard
    exact ⟨exclusive, ⟨framing, overrun, discarded⟩, counter, monitor⟩
  | lineBreakEnd => exact ⟨exclusive, counts, counter, monitor⟩
  | request m rest r t front answer =>
    obtain ⟨exclusive, counts, counter, monitor⟩ :=
      State.PortsSound.answer answer ⟨exclusive, counts, counter, monitor⟩
    exact ⟨exclusive, counts, counter, monitor⟩
  | sync rx => exact ⟨exclusive.of_bindings rfl, counts, Nat.mod_lt _ (by decide), monitor.sync⟩
  | tick => exact sound.tickOnce
  | encoded => exact ⟨exclusive, counts, counter, monitor⟩
  | stale => exact ⟨exclusive, counts, counter, monitor⟩
  | decoded => exact ⟨exclusive, counts, counter, monitor⟩

/-! ### The queues of the link (R179, R180) -/

/-- The bytes that the receive queue holds or has reserved. -/
def Link.rxUsed (l : Link) : Nat := (l.rx.map Message.size).sum + l.receiver.reserved

/-- The receive queue within its size, the message being assembled still open (R179). -/
structure Link.RxFits (l : Link) : Prop where
  room : l.rxUsed ≤ Config.rxBytes
  wants : ∀ left got ovr, l.receiver = .collecting left got ovr → 1 ≤ left

theorem Link.rxFits_of_hunting {l : Link} (hunting : l.receiver = .hunting)
    (room : (l.rx.map Message.size).sum ≤ Config.rxBytes) : l.RxFits where
  room := by rwa [Link.rxUsed, hunting]
  wants left got ovr h := by
    rw [hunting] at h
    cases h

theorem Link.RxFits.queue {l : Link} (h : l.RxFits) : (l.rx.map Message.size).sum ≤ Config.rxBytes :=
  (Nat.le_add_right _ _).trans h.room

/-- A message complete takes at most what was reserved for it. -/
theorem messageOf_size (bytes : List Byte) : ((messageOf bytes).toList.map Message.size).sum ≤ 3 + bytes.length := by
  unfold messageOf
  split
  · simp [Message.size]
    omega
  · simp

theorem Link.RxFits.collect {l : Link} (h : l.RxFits) {left : Nat} {got : List Byte} {ovr : Bool} (b : Byte)
    (at_ : l.receiver = .collecting left got ovr) : (l.collect left got ovr b).RxFits := by
  have wants := h.wants left got ovr at_
  unfold Link.collect
  dsimp only
  split
  · split
    · exact Link.rxFits_of_hunting rfl h.queue
    · rename_i not_lost
      refine Link.rxFits_of_hunting rfl ?_
      have room := h.room
      have size := messageOf_size (b :: got).reverse
      rw [Link.rxUsed, at_, Bool.eq_false_iff.2 not_lost] at room
      simp only [Receiver.reserved] at room
      rw [List.length_reverse, List.length_cons] at size
      simp only [Link.complete, List.map_append, List.sum_append]
      omega
  · rename_i more
    refine ⟨?_, fun left' got' ovr' same => ?_⟩
    · have room := h.room
      rw [Link.rxUsed, at_] at room
      show (l.rx.map Message.size).sum + (Receiver.collecting (left - 1) (if ovr then got else b :: got) ovr).reserved ≤ _
      cases ovr with
      | true => exact h.queue
      | false =>
        simp only [Receiver.reserved, Bool.false_eq_true, if_false, List.length_cons] at room ⊢
        omega
    · cases same
      omega

theorem Link.RxFits.checkLength {l : Link} (h : l.RxFits) {got : List Byte} (at_ : l.receiver = .lengthBytes got) (len : Nat) :
    (l.checkLength len).RxFits := by
  unfold Link.checkLength
  split
  · exact Link.rxFits_of_hunting rfl h.queue
  · rename_i fits
    split
    · exact ⟨h.queue, fun left got ovr same => by cases same; omega⟩
    · rename_i room
      refine ⟨?_, fun left got ovr same => by cases same; omega⟩
      have used := h.queue
      rw [Link.rxFree, at_] at room
      show (l.rx.map Message.size).sum + (3 + len + 0) ≤ Config.rxBytes
      simp only [Receiver.reserved] at room
      omega

theorem Link.RxFits.char {l : Link} (h : l.RxFits) (b : Byte) : (l.char b).RxFits := by
  have counts {got : List Byte} : ({ l with receiver := .lengthBytes got } : Link).RxFits :=
    ⟨h.queue, fun left got ovr same => nomatch same⟩
  unfold Link.char
  split
  · split
    · exact counts
    · exact h
  · exact counts
  · rename_i at_
    exact h.checkLength at_ _
  · rename_i at_
    exact h.collect b at_
  · exact h

theorem Link.RxFits.receive {s : State} (h : s.link.RxFits) (chars : List Byte) : (s.receive chars).link.RxFits := by
  have all (l : Link) (h : l.RxFits) : (chars.foldl Link.char l).RxFits := by
    induction chars generalizing l with
    | nil => exact h
    | cons b rest ih => exact ih _ (h.char b)
  unfold State.receive
  split
  · exact all _ h
  · exact h

theorem Link.queuesFit_iff (l : Link) : l.QueuesFit ↔ l.RxFits ∧ l.tx.length ≤ Config.txBytes :=
  ⟨fun ⟨rx, tx, wants⟩ => ⟨⟨rx, wants⟩, tx⟩, fun ⟨rx, tx⟩ => ⟨rx.room, tx, rx.wants⟩⟩

/-- The body of every answer has the room that its request made (R180). -/
theorem State.Answer.size {m : Message} {s t : State} {r : Reply} (h : s.Answer m (r, t)) (fit : s.works.TablesFit) :
    r.body.length ≤ maxBody := by
  cases h with
  | works answer =>
    cases answer with
    | refused refused => exact Nat.zero_le _
    | marksFull => exact Nat.zero_le _
    | reported accepts size => exact size fit
    | carried accepts size => exact size
  | status body size => exact size
  | configure body cfg accepts size => exact size
  | restart => exact Nat.zero_le _
  | bind c b body size => exact size
  | feed c rs body size => exact size

theorem State.Answer.rxFits {m : Message} {s t : State} {r : Reply} (h : s.Answer m (r, t)) (fits : s.link.RxFits) :
    t.link.RxFits := by
  cases h with
  | works answer => exact fits
  | status => exact ⟨fits.room, fits.wants⟩
  | configure => exact fits
  | restart kind => exact Link.rxFits_of_hunting rfl fits.queue
  | bind => exact fits
  | feed => exact fits

theorem State.Next.queuesFit {s t : State} (h : s.Next t) (fit : s.works.TablesFit) (queues : s.link.QueuesFit) :
    t.link.QueuesFit := by
  have starts (rate : LinkRate) := Link.start_queuesFit rate
  obtain ⟨rx, tx⟩ := s.link.queuesFit_iff.1 queues
  have hunts {l : Link} (hunting : l.receiver = .hunting) (same_rx : l.rx = s.link.rx) (same_tx : l.tx = s.link.tx) :
      l.QueuesFit :=
    l.queuesFit_iff.2 ⟨Link.rxFits_of_hunting hunting (same_rx ▸ rx.queue), same_tx ▸ tx⟩
  cases h with
  | same => exact queues
  | idle =>
    unfold State.idle
    split
    · exact queues
    · refine (Link.queuesFit_iff _).2 ⟨⟨rx.room, rx.wants⟩, ?_⟩
      show (s.link.tx.drop 1).length ≤ _
      rw [List.length_drop]
      omega
  | powerOn straps => exact starts _
  | held => exact (Link.queuesFit_iff _).2 ⟨Link.rxFits_of_hunting rfl (Nat.zero_le _), Nat.zero_le _⟩
  | release straps => exact starts _
  | loadingEnd => exact queues
  | writingEnd => exact queues
  | check => exact queues
  | makeFull => exact (Link.queuesFit_iff _).2 ⟨Link.rxFits_of_hunting rfl (Nat.zero_le _), Nat.zero_le _⟩
  | makeKeep => exact (Link.queuesFit_iff _).2 ⟨Link.rxFits_of_hunting rfl (Nat.zero_le _), Nat.zero_le _⟩
  | receive chars =>
    refine (Link.queuesFit_iff _).2 ⟨rx.receive chars, ?_⟩
    unfold State.receive
    split
    · rw [(Link.foldl_char_queues chars s.link).2]
      exact tx
    · exact tx
  | framing => exact hunts rfl rfl rfl
  | lineBreak =>
    by_cases hunting : s.link.receiver = .hunting
    · exact hunts (if_pos hunting) rfl rfl
    · have broken : s.link.beginBreak.receiver = .brokenOff := if_neg hunting
      refine (Link.queuesFit_iff _).2 ⟨⟨?_, fun left got ovr same => ?_⟩, tx⟩
      · rw [Link.rxUsed, broken]
        exact rx.queue
      · rw [broken] at same
        exact nomatch same
  | lineBreakEnd => exact hunts rfl rfl rfl
  | request m rest r t front answer =>
    obtain ⟨-, -, waiting⟩ := front
    have size := answer.size fit
    have kept : (s.taken rest).link.RxFits := by
      refine ⟨?_, rx.wants⟩
      have room := rx.room
      rw [Link.rxUsed, waiting, List.map_cons, List.sum_cons] at room
      show (rest.map Message.size).sum + s.link.receiver.reserved ≤ _
      omega
    have after := answer.rxFits kept
    refine (Link.queuesFit_iff _).2 ⟨⟨after.room, after.wants⟩, ?_⟩
    show (t.link.tx ++ replyBytes m r).length ≤ Config.txBytes
    have sent : t.link.tx = makeRoom s.link.tx := by rw [answer.transmits, State.taken]
    rw [sent, List.length_append, replyBytes_length]
    have made := makeRoom_length s.link.tx
    simp only [maxBody, Config.txBytes, Config.maxReply] at size made ⊢
    omega
  | sync => exact queues
  | tick =>
    rw [State.tickOnce_eq]
    exact queues
  | encoded => exact queues
  | stale => exact queues
  | decoded => exact queues

/-- Settles O55: each register by the cases of what a command can do to it, the queues with the size of replies
(`State.Answer.size`), the tables as the moves of the works keep them. -/
theorem portsStayInOrder : Obligations.PortsStayInOrder := by
  constructor
  · intro s t exclusive counts counter monitor h
    obtain ⟨queue, next⟩ := step_next h
    obtain ⟨exclusive, counts, counter, monitor⟩ := next.portsSound ⟨exclusive, counts, counter, monitor⟩
    exact ⟨exclusive, counts, counter, monitor⟩
  · intro s t queues fit h
    obtain ⟨queue, next⟩ := step_next h
    exact ⟨next.queuesFit fit queues, (step_works_change h).tablesFit fit⟩

end Sys2Proof.Machine

/-! PROOFS. How sums over channels and letters change with one record, and what each change of a list of entries does to its
length: the arithmetic of R35. -/

namespace Sys2Proof.Machine

/-! ### Records by their index -/

theorem forall_getD {α : Type} {xs : List α} {d : α} {p : α → Prop} (default : p d) :
    (∀ x ∈ xs, p x) ↔ ∀ n, p (xs.getD n d) := by
  constructor
  · intro each n
    rw [List.getD_eq_getElem?_getD]
    cases found : xs[n]? with
    | none => exact default
    | some x => exact each x (List.mem_of_getElem? found)
  · intro each x hx
    obtain ⟨n, inside, rfl⟩ := List.mem_iff_getElem.1 hx
    rw [← List.getD_eq_getElem xs d inside]
    exact each n

theorem getD_set_ne {α : Type} (xs : List α) (x d : α) {n m : Nat} (h : m ≠ n) : (xs.set n x).getD m d = xs.getD m d := by
  simp [List.getD_eq_getElem?_getD, List.getElem?_set_ne (Ne.symm h)]

theorem getD_set_self {α : Type} (xs : List α) (x d : α) {n : Nat} (h : n < xs.length) : (xs.set n x).getD n d = x := by
  simp [List.getD_eq_getElem?_getD, h]

theorem Works.chan_of_set {k k' : Works} {c : Nat} {ch : Channel} (chans : k'.chans = k.chans.set c ch)
    (inside : c < k.chans.length) : k'.chan c = ch := by
  rw [Works.chan, chans, getD_set_self _ _ _ inside]

theorem Works.chan_of_set_ne {k k' : Works} {c d : Nat} {ch : Channel} (chans : k'.chans = k.chans.set c ch) (h : d ≠ c) :
    k'.chan d = k.chan d := by rw [Works.chan, chans, getD_set_ne _ _ _ h, Works.chan]

theorem Works.letter_of_set {k k' : Works} {i : Nat} {l : Letter} (letters : k'.letters = k.letters.set i l)
    (inside : i < k.letters.length) : k'.letter i = l := by
  rw [Works.letter, letters, getD_set_self _ _ _ inside]

theorem Works.letter_of_set_ne {k k' : Works} {i j : Nat} {l : Letter} (letters : k'.letters = k.letters.set i l)
    (h : j ≠ i) : k'.letter j = k.letter j := by rw [Works.letter, letters, getD_set_ne _ _ _ h, Works.letter]

theorem Works.letter_of_letters_eq {k k' : Works} (letters : k'.letters = k.letters) (i : Nat) :
    k'.letter i = k.letter i := by rw [Works.letter, letters, Works.letter]

/-- Nothing is changed when the record set is not there. -/
theorem set_beyond {α : Type} {xs : List α} {n : Nat} (x : α) (h : ¬n < xs.length) : xs.set n x = xs :=
  List.set_eq_of_length_le (Nat.le_of_not_lt h)

/-! ### Sums over records -/

theorem sum_map_set {α : Type} (f : α → Nat) (xs : List α) {n : Nat} (x d : α) (h : n < xs.length) :
    ((xs.set n x).map f).sum + f (xs.getD n d) = (xs.map f).sum + f x := by
  induction xs generalizing n with
  | nil => exact absurd h (Nat.not_lt_zero n)
  | cons y ys ih =>
    cases n with
    | zero =>
      simp only [List.set_cons_zero, List.map_cons, List.sum_cons, List.getD_cons_zero]
      omega
    | succ n =>
      have rest := ih (Nat.lt_of_succ_lt_succ h)
      simp only [List.set_cons_succ, List.map_cons, List.sum_cons, List.getD_cons_succ]
      omega

/-- A record replaced by one that counts as much. -/
theorem sum_map_set_same {α : Type} (f : α → Nat) (xs : List α) (n : Nat) (x d : α) (same : f x = f (xs.getD n d)) :
    ((xs.set n x).map f).sum = (xs.map f).sum := by
  by_cases h : n < xs.length
  · have both := sum_map_set f xs x d h
    omega
  · rw [set_beyond x h]

theorem sum_map_forall₂ {α : Type} {r : α → α → Prop} (f : α → Nat) {xs ys : List α} (h : List.Forall₂ r xs ys)
    (same : ∀ x y, r x y → f y = f x) : (ys.map f).sum = (xs.map f).sum := by
  induction h with
  | nil => rfl
  | cons hxy _ ih => rw [List.map_cons, List.map_cons, List.sum_cons, List.sum_cons, same _ _ hxy, ih]

theorem count_flatMap {α : Type} (f : α → List Nat) (n : Nat) (xs : List α) :
    (xs.flatMap f).count n = (xs.map fun x => (f x).count n).sum := by
  induction xs with
  | nil => rfl
  | cons x rest ih => rw [List.flatMap_cons, List.count_append, ih, List.map_cons, List.sum_cons]

/-! ### Lengths of edit lists (R35, R40 to R44) -/

theorem Letter.cut_append (l : Letter) (p : Nat) : (l.cut p).before ++ (l.cut p).rest = l.edit := cutAt_append _ _ _

theorem Letter.cut_length (l : Letter) (p : Nat) : l.edit.length = (l.cut p).before.length + (l.cut p).rest.length := by
  rw [← List.length_append, l.cut_append]

theorem planOverwrite_length (l : Letter) (w : Nat) (new : Entry) (spare : Nat) :
    (planOverwrite l w new spare).edit.length = l.edit.length + (planOverwrite l w new spare).need := by
  have whole := l.cut_length w
  unfold planOverwrite
  dsimp only
  split
  · rename_i rest
    rw [rest] at whole
    simp [whole]
  · rename_i e post rest
    rw [rest, List.length_cons] at whole
    split
    · simp [whole]
    · split <;> split
      all_goals
        simp only [List.length_append, List.length_cons, runPiece_length]
        split_ifs
        omega

theorem planInsert_length (l : Letter) (w : Nat) (new : Entry) (spare : Nat) :
    (planInsert l w new spare).edit.length = l.edit.length + (planInsert l w new spare).need := by
  have whole := l.cut_length w
  unfold planInsert
  dsimp only
  split
  · rename_i rest
    rw [rest] at whole
    simp [whole]
  · rename_i e post rest
    rw [rest, List.length_cons] at whole
    split
    · simp [whole]
      omega
    · rename_i kind n body
      have inside := cutAt_holds rest
      have count : e.count = n := by rw [Entry.count, body]; rfl
      have start : (cutAt w l.sealB l.edit).start = (l.cut w).start := rfl
      split
      · simp [whole]
        omega
      · rename_i within
        have back : ¬n - (w - (l.cut w).start) = 0 := by omega
        simp only [List.length_append, List.length_cons, runPiece_length, if_neg within, if_neg back]
        omega

/-- A placement takes from the pool what its list has grown by (R40, R41, R43). -/
theorem planEntry_length (mode : RecMode) (l : Letter) (w : Nat) (new : Entry) (spare : Nat) :
    (planEntry mode l w new spare).edit.length = l.edit.length + (planEntry mode l w new spare).need := by
  cases mode with
  | insert => exact planInsert_length l w new spare
  | overwrite => exact planOverwrite_length l w new spare

/-- A growth step returns what its list has shrunk by (R42, R44). -/
theorem planGrowth_length (mode : RecMode) (l : Letter) (w id : Nat) :
    (planGrowth mode l w id).edit.length + (planGrowth mode l w id).returned = l.edit.length := by
  cases mode with
  | insert => exact bumpRun_length id l.edit
  | overwrite =>
    have whole := l.cut_length w
    show (growOverwrite l w id).edit.length + (growOverwrite l w id).returned = l.edit.length
    unfold growOverwrite
    dsimp only
    split
    · rename_i rest
      rw [rest] at whole
      simp [whole, bumpRun_length]
    · rename_i e post rest
      rw [rest, List.length_cons] at whole
      split
      · simp only [List.length_append, bumpRun_length]
        omega
      · rename_i kind n body
        simp only [List.length_append, bumpRun_length, runPiece_length]
        split <;> split <;> omega

/-- A split makes one entry more (R64, step 3). -/
theorem Letter.splitRun_length {l : Letter} {p spare : Nat} {edit : List Entry} (h : l.splitRun p spare = some edit) :
    edit.length = l.edit.length + 1 := by
  have whole := l.cut_length p
  unfold Letter.splitRun at h
  dsimp only at h
  split at h
  · rename_i id kind n post rest
    split at h
    · cases h
      rw [rest, List.length_cons] at whole
      simp only [List.length_append, List.length_cons]
      omega
    · exact nomatch h
  · exact nomatch h

/-- TRUNCATE returns what it cuts off (R58). -/
theorem Letter.truncated_length (l : Letter) (c : Nat) : (l.truncated c).length + (l.cutAway c).length = l.edit.length := by
  have whole := l.cut_length c
  unfold Letter.truncated Letter.cutAway
  dsimp only
  cases rest : (l.cut c).rest with
  | nil =>
    rw [rest] at whole
    simpa using whole.symm
  | cons e post =>
    rw [rest, List.length_cons] at whole
    have inside := cutAt_holds rest
    have start : (cutAt c l.sealB l.edit).start = (l.cut c).start := rfl
    obtain ⟨id, body⟩ := e
    cases body with
    | run kind n =>
      simp only [List.length_append, runPiece_length]
      split <;> split
      · omega
      · simp only [List.length_cons]
        omega
      · omega
      · omega
    | speech held =>
      have one : (⟨id, .speech held⟩ : Entry).count = 1 := rfl
      dsimp only
      rw [if_neg (by omega), List.length_cons]
      omega

theorem withMarks_length (ms : List Mark) (s : Nat) (es : List Entry) : (withMarks ms s es).length = es.length := by
  rw [← List.length_map (f := SealedEntry.entry), withMarks_entries]

theorem Letter.sealable_append (l : Letter) (window : Nat) : (l.sealable window).1 ++ (l.sealable window).2 = l.edit :=
  sealSplit_append _ _ _

/-- Sealed or not, an entry of a letter counts once (R48). -/
theorem Letter.entryCount_sealEntries {l : Letter} {moved kept : List Entry} (whole : moved ++ kept = l.edit) :
    (l.sealEntries moved kept).entryCount = l.entryCount := by
  unfold Letter.sealEntries Letter.entryCount
  rw [← whole]
  simp only [List.length_append, withMarks_length]
  omega

theorem Letter.entryCount_ended (l : Letter) : l.ended.entryCount = l.entryCount := by
  unfold Letter.ended Letter.entryCount
  simp only [List.length_append, withMarks_length, List.length_nil]
  omega

theorem queued_length (id : Nat) (pool : List Nat) (rs : List FedRecord) : (queued id pool rs).length = rs.length := by
  induction rs generalizing id pool with
  | nil => rfl
  | cons r rest ih =>
    unfold queued
    split <;> rw [List.length_cons, ih, List.length_cons]

end Sys2Proof.Machine

/-! PROOFS. The accounting of entries at every step (R33 to R35, R74, R75): what a move does to a channel, to a letter and to
the pool, and that the sum of R35 stays. -/

namespace Sys2Proof.Machine

/-! ### Sealing as a move -/

/-- A relation that holds across flags, calm changes of channels and the sealing of entries holds across sealing (R48). -/
theorem Works.applySealing_keeps {R : Works → Works → Prop} (refl : ∀ k, R k k)
    (trans : ∀ {a b c : Works}, R a b → R b c → R a c)
    (raise : ∀ (k : Works) (kind : EventKind) (chan : Nat) (detail : BitVec 32) (label : BitVec 16),
      R k (k.raiseWith kind chan detail label))
    (calm : ∀ (k : Works) (c : Nat) (f : Channel → Channel), (k.chan c).Calm (f (k.chan c)) → R k (k.modChan c f))
    (sealed_ : ∀ (k : Works) (i c window : Nat), (k.letter i).state = .attached → (k.letter i).channel = some c →
      R k (k.modLetter i fun l => l.sealEntries ((k.letter i).sealable window).1 ((k.letter i).sealable window).2))
    (k : Works) (i : Nat) : R k (k.applySealing i) := by
  have ends (k : Works) (c : Nat) (p : Channel → Prop) [DecidablePred p] :
      R k (k.modChan c fun ch => if p ch then { ch with det := { ch.det with growing := none } } else ch) := by
    refine calm k c (fun ch => if p ch then { ch with det := { ch.det with growing := none } } else ch) ?_
    dsimp only
    split
    · exact ⟨rfl, rfl, Iff.rfl, rfl, rfl, rfl, .inl rfl, fun h => ⟨h, .inr ⟨rfl, rfl⟩⟩, fun _ => .inl⟩
    · exact .refl _
  unfold Works.applySealing
  dsimp only
  split
  · rename_i c attached channel
    split
    · exact refl k
    · have moved := trans (sealed_ k i c (k.chan c).settings.window attached channel)
        (ends _ c fun ch => (((k.letter i).sealable (k.chan c).settings.window).1.any fun e =>
          decide (ch.det.growing = some e.id)) = true)
      split
      · exact trans moved (raise _ _ _ _ _)
      · exact moved
  · exact refl k

/-! ### The accounting by index -/

/-- `Works.Accounted`, record by record. -/
structure Works.Acc (k : Works) : Prop where
  chans : k.chans.length = Config.channelCount
  letters : k.letters.length = Config.letterCount
  channel : ∀ c, (k.chan c).Sound
  letter : ∀ i, (k.letter i).Sound
  attached : k.LettersAttached
  job : ∀ j, k.job = some j → j.Sound
  entries : k.EntriesAddUp

theorem Works.accounted_iff (k : Works) : k.Accounted ↔ k.Acc := by
  have channel : (∀ ch ∈ k.chans, ch.Sound) ↔ ∀ c, (k.chan c).Sound := forall_getD Channel.initial_sound
  have letter : (∀ l ∈ k.letters, l.Sound) ↔ ∀ i, (k.letter i).Sound := forall_getD Letter.freeRecord_sound
  rw [Works.Accounted, channel, letter]
  exact ⟨fun ⟨a, b, c, d, e, f, g⟩ => ⟨a, b, c, d, e, f, g⟩, fun ⟨a, b, c, d, e, f, g⟩ => ⟨a, b, c, d, e, f, g⟩⟩

/-- A channel that a letter is named by exists. -/
theorem Works.lt_of_chan_letter {k : Works} {c i : Nat} (h : (k.chan c).letter = some i) : c < k.chans.length := by
  by_contra beyond
  have default : k.chan c = Channel.initial := by simp [Works.chan, Nat.le_of_not_lt beyond]
  rw [default] at h
  exact nomatch h

/-- What a channel's letter is (R34, R75). -/
theorem Works.Acc.letter_of_chan {k : Works} (h : k.Acc) {c i : Nat} (names : (k.chan c).letter = some i) :
    i < k.letters.length ∧ (k.letter i).state = .attached ∧ (k.letter i).channel = some c := by
  have inside := Works.lt_of_chan_letter names
  rw [h.chans] at inside
  obtain ⟨exists_, attached, channel⟩ := (h.attached c i inside).1 names
  exact ⟨h.letters ▸ exists_, attached, channel⟩

theorem Works.Acc.dictates {k : Works} (h : k.Acc) {c i : Nat} (names : (k.chan c).letter = some i) :
    (k.chan c).kind = .dictation := (h.channel c).2.1.2 (by rw [names]; exact (nomatch ·))

/-- No two channels name one letter. -/
theorem Works.Acc.alone {k : Works} (h : k.Acc) {c d i : Nat} (names : (k.chan c).letter = some i) (apart : d ≠ c) :
    (k.chan d).letter ≠ some i := fun also => by
  obtain ⟨-, -, of_c⟩ := h.letter_of_chan names
  obtain ⟨-, -, of_d⟩ := h.letter_of_chan also
  exact apart (Option.some.inj (of_d.symm.trans of_c))

/-- A letter that is not ATTACHED is named by no channel. -/
theorem Works.Acc.unnamed {k : Works} (h : k.Acc) {i : Nat} (loose : (k.letter i).state ≠ .attached) (c : Nat) :
    (k.chan c).letter ≠ some i := fun names => loose (h.letter_of_chan names).2.1

theorem Works.Acc.no_letter {k : Works} (h : k.Acc) {c : Nat} (plays : (k.chan c).kind ≠ .dictation) :
    (k.chan c).letter = none := by
  by_contra some_letter
  exact plays ((h.channel c).2.1.2 some_letter)

theorem Works.Acc.closed {k : Works} (h : k.Acc) {c : Nat} (closed : (k.chan c).state = .closed) :
    (k.chan c).kind = .noKind ∧ (k.chan c).letter = none ∧ (k.chan c).feed = [] := by
  have kind := (h.channel c).1.1 closed
  refine ⟨kind, h.no_letter ?_, (h.channel c).2.2 ?_⟩ <;> rw [kind] <;> decide

/-! ### What a change keeps of the accounting -/

/-- A change of a channel that keeps its letter and its order. -/
structure Channel.KeepsAcc (ch ch' : Channel) : Prop where
  letter : ch'.letter = ch.letter
  sound : ch.Sound → ch'.Sound

theorem Channel.KeepsAcc.refl (ch : Channel) : ch.KeepsAcc ch := ⟨rfl, id⟩

theorem Channel.KeepsAcc.of_fields {ch ch' : Channel} (kind : ch'.kind = ch.kind)
    (closed : ch'.state = .closed ↔ ch.state = .closed) (letter : ch'.letter = ch.letter) (feed : ch.feed = [] → ch'.feed = []) :
    ch.KeepsAcc ch' where
  letter := letter
  sound := fun ⟨open_, dictates, plays⟩ =>
    ⟨by rw [closed, kind]; exact open_, by rw [kind, letter]; exact dictates, fun h => feed (plays (kind ▸ h))⟩

theorem Channel.KeepsAcc.of_calm {ch ch' : Channel} (calm : ch.Calm ch') : ch.KeepsAcc ch' :=
  .of_fields calm.kind calm.closed calm.letter fun empty => by
    have ids := calm.feedIds
    rw [empty] at ids
    exact List.map_eq_nil_iff.1 ids

/-- A change of a letter that keeps its channel and its order. -/
structure Letter.KeepsAcc (l l' : Letter) : Prop where
  link : ∀ c, (l'.state = .attached ∧ l'.channel = some c) ↔ (l.state = .attached ∧ l.channel = some c)
  sound : l.Sound → l'.Sound

theorem Letter.KeepsAcc.refl (l : Letter) : l.KeepsAcc l := ⟨fun _ => Iff.rfl, id⟩

/-- A change of what an ATTACHED letter holds. -/
theorem Letter.KeepsAcc.of_attached {l l' : Letter} (attached : l.state = .attached) (state : l'.state = l.state)
    (channel : l'.channel = l.channel) (endTaken : l'.endTaken = l.endTaken) : l.KeepsAcc l' where
  link c := by rw [state, channel]
  sound := fun ⟨_, _, taken⟩ => by
    refine ⟨fun free => ?_, fun ending => ?_, endTaken.trans taken⟩
    · rw [state, attached] at free
      exact nomatch free
    · rw [state, attached] at ending
      exact nomatch ending

/-- A change of what a letter holds, where nothing stays nothing. -/
theorem Letter.KeepsAcc.of_fields {l l' : Letter} (state : l'.state = l.state) (channel : l'.channel = l.channel)
    (endTaken : l'.endTaken = l.endTaken) (edit : l.edit = [] → l'.edit = [])
    (sealedList : l.sealedList = [] → l'.sealedList = []) : l.KeepsAcc l' where
  link c := by rw [state, channel]
  sound := fun ⟨free, ending, taken⟩ => by
    refine ⟨fun h => ?_, fun h => edit (ending (state ▸ h)), endTaken.trans taken⟩
    obtain ⟨none_edit, none_sealed⟩ := free (state ▸ h)
    exact ⟨edit none_edit, sealedList none_sealed⟩

/-- Changes record by record that keep letters attached as they are. -/
theorem Works.Acc.of_kept {k k' : Works} (h : k.Acc) (chans : k'.chans.length = k.chans.length)
    (letters : k'.letters.length = k.letters.length) (channel : ∀ c, (k.chan c).KeepsAcc (k'.chan c))
    (letter : ∀ i, (k.letter i).KeepsAcc (k'.letter i)) (job : ∀ j, k'.job = some j → j.Sound)
    (entries : k'.EntriesAddUp) : k'.Acc where
  chans := chans.trans h.chans
  letters := letters.trans h.letters
  channel c := (channel c).sound (h.channel c)
  letter i := (letter i).sound (h.letter i)
  attached c i inside := by
    rw [(channel c).letter, h.attached c i inside, (letter i).link c]
  job := job
  entries := entries

theorem Works.letterEntries_set {k k' : Works} {i : Nat} {l : Letter} (letters : k'.letters = k.letters.set i l)
    (inside : i < k.letters.length) : k'.letterEntries + (k.letter i).entryCount = k.letterEntries + l.entryCount := by
  rw [Works.letterEntries, letters]
  exact sum_map_set _ _ _ _ inside

theorem Works.feedEntries_set {k k' : Works} {c : Nat} {ch : Channel} (chans : k'.chans = k.chans.set c ch)
    (inside : c < k.chans.length) : k'.feedEntries + (k.chan c).feed.length = k.feedEntries + ch.feed.length := by
  rw [Works.feedEntries, chans]
  exact sum_map_set (fun ch : Channel => ch.feed.length) _ _ _ inside

/-- A change of one letter, what it gives up going to the pool. -/
theorem Works.Acc.set_letter {k k' : Works} (h : k.Acc) {i : Nat} {l : Letter} (letters : k'.letters = k.letters.set i l)
    (chans : k'.chans = k.chans) (job : k'.job = k.job) (kept : (k.letter i).KeepsAcc l)
    (count : i < k.letters.length → k'.freeEntries + l.entryCount = k.freeEntries + (k.letter i).entryCount)
    (beyond : ¬i < k.letters.length → k'.freeEntries = k.freeEntries) : k'.Acc := by
  have feeds : k'.feedEntries = k.feedEntries := by rw [Works.feedEntries, chans, Works.feedEntries]
  refine h.of_kept (by rw [chans]) (by rw [letters, List.length_set])
    (fun c => by rw [Works.chan_of_chans_eq chans]; exact .refl _) (fun j => ?_) (fun j hj => h.job j (job ▸ hj)) ?_
  · by_cases same : j = i ∧ i < k.letters.length
    · obtain ⟨rfl, inside⟩ := same
      rw [Works.letter_of_set letters inside]
      exact kept
    · by_cases inside : i < k.letters.length
      · rw [Works.letter_of_set_ne letters fun e => same ⟨e, inside⟩]
        exact .refl _
      · rw [Works.letter_of_letters_eq (letters.trans (set_beyond l inside))]
        exact .refl _
  · have before := h.entries
    by_cases inside : i < k.letters.length
    · have sums := Works.letterEntries_set letters inside
      have counted := count inside
      rw [Works.EntriesAddUp] at before ⊢
      omega
    · rw [Works.EntriesAddUp, Works.letterEntries, letters, set_beyond l inside, beyond inside, feeds]
      exact before

/-- A change of one channel, what its feed queue gives up going to the pool. -/
theorem Works.Acc.set_chan {k k' : Works} (h : k.Acc) {c : Nat} {ch : Channel} (chans : k'.chans = k.chans.set c ch)
    (letters : k'.letters = k.letters) (job : ∀ j, k'.job = some j → j.Sound) (kept : (k.chan c).KeepsAcc ch)
    (count : c < k.chans.length → k'.freeEntries + ch.feed.length = k.freeEntries + (k.chan c).feed.length)
    (beyond : ¬c < k.chans.length → k'.freeEntries = k.freeEntries) : k'.Acc := by
  have held : k'.letterEntries = k.letterEntries := by rw [Works.letterEntries, letters, Works.letterEntries]
  refine h.of_kept (by rw [chans, List.length_set]) (by rw [letters]) (fun d => ?_)
    (fun i => by rw [Works.letter_of_letters_eq letters]; exact .refl _) job ?_
  · by_cases inside : c < k.chans.length
    · by_cases same : d = c
      · subst same
        rw [Works.chan_of_set chans inside]
        exact kept
      · rw [Works.chan_of_set_ne chans same]
        exact .refl _
    · rw [Works.chan_of_chans_eq (chans.trans (set_beyond ch inside))]
      exact .refl _
  · have before := h.entries
    by_cases inside : c < k.chans.length
    · have sums := Works.feedEntries_set chans inside
      have counted := count inside
      rw [Works.EntriesAddUp] at before ⊢
      omega
    · rw [Works.EntriesAddUp, Works.feedEntries, chans, set_beyond ch inside, beyond inside, held]
      exact before

theorem Works.Acc.of_same {k k' : Works} (h : k.Acc) (chans : k'.chans = k.chans) (letters : k'.letters = k.letters)
    (job : k'.job = k.job) (free : k'.freeEntries = k.freeEntries) : k'.Acc := by
  refine h.of_kept (by rw [chans]) (by rw [letters]) (fun c => by rw [Works.chan_of_chans_eq chans]; exact .refl _)
    (fun i => by rw [Works.letter_of_letters_eq letters]; exact .refl _) (fun j hj => h.job j (job ▸ hj)) ?_
  have before := h.entries
  rw [Works.EntriesAddUp, Works.letterEntries, Works.feedEntries] at before ⊢
  rw [chans, letters, free]
  exact before

theorem Works.Acc.modLetter {k : Works} (h : k.Acc) {i : Nat} {f : Letter → Letter} (kept : (k.letter i).KeepsAcc (f (k.letter i)))
    (count : (f (k.letter i)).entryCount = (k.letter i).entryCount) : (k.modLetter i f).Acc :=
  h.set_letter rfl rfl rfl kept (fun _ => congrArg _ count) fun _ => rfl

theorem Works.Acc.modChan {k : Works} (h : k.Acc) {c : Nat} {f : Channel → Channel} (kept : (k.chan c).KeepsAcc (f (k.chan c)))
    (count : (f (k.chan c)).feed.length = (k.chan c).feed.length) : (k.modChan c f).Acc :=
  h.set_chan rfl rfl h.job kept (fun _ => congrArg _ count) fun _ => rfl

theorem Channel.Calm.feed_length {ch ch' : Channel} (calm : ch.Calm ch') : ch'.feed.length = ch.feed.length := by
  have ids := congrArg List.length calm.feedIds
  rwa [List.length_map, List.length_map] at ids

theorem Works.Acc.calm {k : Works} (h : k.Acc) {c : Nat} {f : Channel → Channel} (calm : (k.chan c).Calm (f (k.chan c))) :
    (k.modChan c f).Acc := h.modChan (.of_calm calm) calm.feed_length

theorem Works.Acc.raiseWith {k : Works} (h : k.Acc) (kind : EventKind) (c : Nat) (d : BitVec 32) (l : BitVec 16) :
    (k.raiseWith kind c d l).Acc := by
  rw [Works.raiseWith_eq]
  exact h.of_same rfl rfl rfl rfl

theorem Works.Acc.retireAtRun {k : Works} (h : k.Acc) (slot : Nat) : (k.retireAtRun slot).Acc := by
  unfold Works.retireAtRun
  refine Works.Acc.raiseWith ?_ _ _ _ _
  unfold Works.retire
  split <;> exact h.of_same rfl rfl rfl rfl

theorem Works.Acc.applySealing {k : Works} (h : k.Acc) (i : Nat) : (k.applySealing i).Acc := by
  refine Works.applySealing_keeps (R := fun k k' => k.Acc → k'.Acc) (fun _ => id) (fun f g => g ∘ f)
    (fun _ _ _ _ _ h => h.raiseWith _ _ _ _) (fun _ _ _ calm h => h.calm calm) (fun k i c window attached _ h => ?_) k i h
  exact h.modLetter (.of_attached attached rfl rfl rfl) (Letter.entryCount_sealEntries ((k.letter i).sealable_append window))

/-- The pools after a placement: free entries leave as the plan needs. -/
theorem Works.afterPlan_fields (k : Works) (p : Plan) :
    (k.afterPlan p).chans = k.chans ∧ (k.afterPlan p).letters = k.letters ∧ (k.afterPlan p).job = k.job ∧
      (k.afterPlan p).freeEntries = k.freeEntries - p.need ∧ (k.afterPlan p).freePool = k.freePool ++ p.freed ∧
      (k.afterPlan p).nextEntry = k.nextEntry + 2 := by
  unfold Works.afterPlan
  dsimp only
  split
  · rw [Works.entriesFreed_armed, Works.entriesTaken_lowered]
    split
    · exact ⟨rfl, rfl, rfl, rfl, rfl, rfl⟩
    · rw [Works.slotsFreed_armed]
      exact ⟨rfl, rfl, rfl, rfl, rfl, rfl⟩
  · rw [Works.entriesTaken_lowered]
    split
    · exact ⟨rfl, rfl, rfl, rfl, rfl, rfl⟩
    · rw [Works.slotsFreed_armed]
      exact ⟨rfl, rfl, rfl, rfl, rfl, rfl⟩

theorem Works.Acc.placeEntry {k k' : Works} (h : k.Acc) {i id : Nat} {mode : RecMode} {body : EntryBody} {grew : Bool}
    (attached : (k.letter i).state = .attached) (placed : k.placeEntry i mode body = .placed k' id grew) : k'.Acc := by
  obtain ⟨-, enough, -, -, rfl⟩ := Works.placeEntry_placed placed
  generalize plan : planEntry mode (k.letter i) (k.letter i).cursor ⟨k.nextEntry, body⟩ (k.nextEntry + 1) = p at enough ⊢
  obtain ⟨chans, letters, job, free, -, -⟩ := (k.modLetter i fun l => l.withPlan mode p).afterPlan_fields p
  have size : p.edit.length = (k.letter i).edit.length + p.need := by
    rw [← plan]
    exact planEntry_length _ _ _ _ _
  refine h.set_letter letters chans job (.of_attached attached rfl rfl rfl) (fun _ => ?_)
    fun beyond => absurd (Works.lt_of_letter_state (by simp [attached])) beyond
  rw [free]
  simp only [Letter.withPlan, Letter.entryCount, Works.modLetter_freeEntries]
  omega

theorem Works.acc_spanMoves : Works.SpanMoves fun k k' => k.Acc → k'.Acc where
  refl _ := id
  trans f g := g ∘ f
  other same h := h.of_same same.chans same.letters same.job same.freeEntries
  raise _ _ _ _ _ h := h.raiseWith _ _ _ _
  channels k chans calm h := by
    refine h.of_kept calm.length_eq.symm rfl (fun c => .of_calm (forall₂_getD calm c (.refl _)))
      (fun i => .refl _) h.job ?_
    have feeds := sum_map_forall₂ (fun ch : Channel => ch.feed.length) calm fun _ _ calm => calm.feed_length
    have before := h.entries
    rw [Works.EntriesAddUp, Works.feedEntries] at before ⊢
    rw [feeds]
    exact before
  letter k i g calm h := by
    refine h.modLetter (.of_fields calm.state calm.channel calm.endTaken (fun e => calm.edit.trans e)
      fun e => calm.sealedList.trans e) ?_
    rw [Letter.entryCount, calm.sealedList, calm.edit, Letter.entryCount]
  sealing _ i h := h.applySealing i
  placeRun letter _ placed h := by
    refine (h.placeEntry (h.letter_of_chan letter).2.1 placed).modChan ?_ rfl
    exact .of_fields rfl Iff.rfl rfl id
  placeSpeech f letter _ _ placed h := by
    refine (h.placeEntry (h.letter_of_chan letter).2.1 placed).modChan ?_ rfl
    exact .of_fields rfl Iff.rfl rfl id
  grow {k c i id n kind} mode letter _ _ _ _ _ h := by
    obtain ⟨-, attached, -⟩ := h.letter_of_chan letter
    rw [Works.giveBack_eq_given]
    refine h.set_letter rfl rfl rfl (.of_attached attached rfl rfl rfl) (fun _ => ?_)
      fun beyond => absurd (Works.lt_of_letter_state (by simp [attached])) beyond
    have size := planGrowth_length mode (k.letter i) (k.letter i).cursor id
    simp only [Works.given, Letter.withGrowth, Letter.entryCount, Works.modLetter_freeEntries]
    omega

end Sys2Proof.Machine

/-! PROOFS. The accounting of entries across the other moves: letters that join and leave channels, takes, feeds and
starts. -/

namespace Sys2Proof.Machine

/-! ### Letters that join and leave channels (R34, R53 to R57, R75) -/

/-- A change of one channel and one letter, given how letters are attached after it. -/
theorem Works.Acc.of_sets {k k' : Works} (h : k.Acc) {c i : Nat} {ch : Channel} {l : Letter}
    (chans : k'.chans = k.chans.set c ch) (letters : k'.letters = k.letters.set i l) (channel : c < k.chans.length)
    (exists_ : i < k.letters.length) (job : k'.job = k.job) (chan_sound : ch.Sound) (letter_sound : l.Sound)
    (attached : k'.LettersAttached) (feed : ch.feed.length = (k.chan c).feed.length)
    (count : k'.freeEntries + l.entryCount = k.freeEntries + (k.letter i).entryCount) : k'.Acc where
  chans := by rw [chans, List.length_set, h.chans]
  letters := by rw [letters, List.length_set, h.letters]
  channel d := by
    by_cases same : d = c
    · rw [same, Works.chan_of_set chans channel]
      exact chan_sound
    · rw [Works.chan_of_set_ne chans same]
      exact h.channel d
  letter j := by
    by_cases same : j = i
    · rw [same, Works.letter_of_set letters exists_]
      exact letter_sound
    · rw [Works.letter_of_set_ne letters same]
      exact h.letter j
  attached := attached
  job j hj := h.job j (job ▸ hj)
  entries := by
    have before := h.entries
    have held := Works.letterEntries_set letters exists_
    have fed := Works.feedEntries_set chans channel
    rw [Works.EntriesAddUp] at before ⊢
    omega

/-- A letter joins a channel that has none. -/
theorem Works.Acc.attach {k k' : Works} (h : k.Acc) {c i : Nat} {ch : Channel} {l : Letter}
    (chans : k'.chans = k.chans.set c ch) (letters : k'.letters = k.letters.set i l) (channel : c < k.chans.length)
    (exists_ : i < k.letters.length) (none_before : (k.chan c).letter = none) (loose : (k.letter i).state ≠ .attached)
    (names : ch.letter = some i) (attached : l.state = .attached) (named : l.channel = some c) : k'.LettersAttached := by
  have inside : i < Config.letterCount := h.letters ▸ exists_
  intro d j hd
  by_cases same_chan : d = c
  · rw [same_chan, Works.chan_of_set chans channel, names]
    by_cases same_letter : j = i
    · rw [same_letter, Works.letter_of_set letters exists_]
      exact ⟨fun _ => ⟨inside, attached, named⟩, fun _ => rfl⟩
    · rw [Works.letter_of_set_ne letters same_letter]
      refine ⟨fun e => absurd (Option.some.inj e).symm same_letter, fun holds => ?_⟩
      have other := (h.attached c j (h.chans ▸ channel)).2 holds
      rw [none_before] at other
      exact nomatch other
  · rw [Works.chan_of_set_ne chans same_chan]
    by_cases same_letter : j = i
    · rw [same_letter, Works.letter_of_set letters exists_]
      refine ⟨fun e => absurd e (h.unnamed loose d), fun holds => ?_⟩
      exact absurd (Option.some.inj (named.symm.trans holds.2.2)).symm same_chan
    · rw [Works.letter_of_set_ne letters same_letter]
      exact h.attached d j hd

/-- A letter leaves its channel. -/
theorem Works.Acc.detach {k k' : Works} (h : k.Acc) {c i : Nat} {ch : Channel} {l : Letter}
    (chans : k'.chans = k.chans.set c ch) (letters : k'.letters = k.letters.set i l)
    (holds : (k.chan c).letter = some i) (names : ch.letter = none) (loose : l.state ≠ .attached) :
    k'.LettersAttached := by
  have channel := Works.lt_of_chan_letter holds
  obtain ⟨exists_, -, -⟩ := h.letter_of_chan holds
  intro d j hd
  by_cases same_chan : d = c
  · rw [same_chan, Works.chan_of_set chans channel, names]
    refine ⟨fun e => (nomatch e), fun after => ?_⟩
    by_cases same_letter : j = i
    · rw [same_letter, Works.letter_of_set letters exists_] at after
      exact absurd after.2.1 loose
    · rw [Works.letter_of_set_ne letters same_letter] at after
      have also := (h.attached c j (h.chans ▸ channel)).2 after
      rw [holds] at also
      exact absurd (Option.some.inj also).symm same_letter
  · rw [Works.chan_of_set_ne chans same_chan]
    by_cases same_letter : j = i
    · rw [same_letter, Works.letter_of_set letters exists_]
      exact ⟨fun e => absurd e (h.alone holds same_chan), fun after => absurd after.2.1 loose⟩
    · rw [Works.letter_of_set_ne letters same_letter]
      exact h.attached d j hd

theorem Channel.Sound.opened {ch : Channel} {i : Nat} (closed : ch.feed = []) :
    (ch.openAs .dictation .ready (some i)).Sound := by
  refine ⟨by simp [Channel.openAs], by simp [Channel.openAs], fun _ => closed⟩

theorem Channel.Sound.release {ch : Channel} (h : ch.Sound) (dictates : ch.kind = .dictation) : ch.release.Sound := by
  refine ⟨by simp [Channel.release, Channel.close], by simp [Channel.release, Channel.close], fun _ => ?_⟩
  exact h.2.2 (by rw [dictates]; decide)

/-- A channel releases its letter, which becomes `l`. -/
theorem Works.Acc.release {k k' : Works} (h : k.Acc) {c i : Nat} {l : Letter}
    (chans : k'.chans = k.chans.set c (k.chan c).release) (letters : k'.letters = k.letters.set i l)
    (holds : (k.chan c).letter = some i) (job : k'.job = k.job) (loose : l.state ≠ .attached) (sound : l.Sound)
    (count : k'.freeEntries + l.entryCount = k.freeEntries + (k.letter i).entryCount) : k'.Acc :=
  h.of_sets chans letters (Works.lt_of_chan_letter holds) (h.letter_of_chan holds).1 job
    ((h.channel c).release (h.dictates holds)) sound (h.detach chans letters holds rfl loose) rfl count

theorem Works.findFree_spec {k : Works} {i : Nat} (h : k.findFree = some i) :
    i < k.letters.length ∧ (k.letter i).state = .free := by
  obtain ⟨inside, free, -⟩ := List.findIdx?_eq_some_iff_getElem.1 h
  rw [Works.letter_eq_getElem inside]
  exact ⟨inside, of_decide_eq_true free⟩

/-! ### Takes (R131 to R140) -/

/-- An entry at the front of a sealed list leaves it. -/
theorem Works.Acc.take_entry {k k' : Works} (h : k.Acc) {i : Nat} {e : Entry} {rest : List SealedEntry}
    (front : (k.letter i).sealedList = ⟨e, []⟩ :: rest)
    (letters : k'.letters = k.letters.set i { k.letter i with sealedList := rest }) (chans : k'.chans = k.chans)
    (job : k'.job = k.job) (free : k'.freeEntries = k.freeEntries + 1) : k'.Acc := by
  have held : (k.letter i).state ≠ .free := fun freed => by
    have nothing := ((h.letter i).1 freed).2
    rw [front] at nothing
    exact nomatch nothing
  refine h.set_letter letters chans job ⟨fun _ => Iff.rfl, fun sound => ⟨fun freed => absurd freed held, sound.2⟩⟩
    (fun _ => ?_) fun beyond => absurd (Works.lt_of_letter_state held) beyond
  simp only [free, Letter.entryCount, front, List.length_cons]
  omega

theorem Works.acc_takeMoves (i : Nat) : Works.TakeMoves (fun k k' => k.Acc → k'.Acc) i where
  refl _ := id
  trans f g := g ∘ f
  other := Works.acc_spanMoves.other
  sealedMark {k e m ms rest} front h := by
    refine h.modLetter (.of_fields rfl rfl rfl id fun empty => ?_) ?_
    · rw [front] at empty
      exact nomatch empty
    · simp [Letter.entryCount, front]
  run front _ h := h.take_entry front rfl rfl rfl rfl
  passed front _ h := h.take_entry front rfl rfl rfl rfl
  failed front _ h := by
    refine Works.Acc.retireAtRun ?_ _
    exact h.take_entry front rfl rfl rfl rfl
  mark _ _ _ h := h.modLetter (.of_fields rfl rfl rfl id id) rfl
  freed {k} at_end h := by
    obtain ⟨-, ending, taken⟩ := h.letter i
    obtain ⟨empty, sealing⟩ := at_end.resolve_left (by rw [taken]; exact Bool.false_ne_true)
    refine h.modLetter ⟨fun c => ?_, fun _ => Letter.freeRecord_sound⟩ ?_
    · rw [sealing]
      exact ⟨fun h => (nomatch h.1), fun h => (nomatch h.1)⟩
    · rw [Letter.entryCount, Letter.entryCount, empty, ending sealing]
      rfl

/-! ### The other moves -/

theorem Works.codeEntry_fields (k : Works) (c i entry : Nat) :
    ∃ body : EntryBody, body.count = 1 ∧ (k.codeEntry c i entry).1.letters =
        k.letters.set i { k.letter i with edit := setBody entry body (k.letter i).edit } ∧
      (k.codeEntry c i entry).1.chans = k.chans ∧ (k.codeEntry c i entry).1.job = k.job ∧
      (k.codeEntry c i entry).1.freeEntries = k.freeEntries ∧ (k.codeEntry c i entry).1.nextEntry = k.nextEntry := by
  unfold Works.codeEntry
  split
  · rename_i slot rest pool
    refine ⟨.speech (some slot), rfl, ?_⟩
    dsimp only
    rw [Works.slotsTaken_eq]
    exact ⟨rfl, rfl, rfl, rfl, rfl⟩
  · refine ⟨.run .lost 1, rfl, ?_⟩
    dsimp only
    rw [Works.raiseCount, Works.raiseWith_eq]
    exact ⟨rfl, rfl, rfl, rfl, rfl⟩

theorem Letter.KeepsAcc.setBody (l : Letter) (id : Nat) (body : EntryBody) :
    l.KeepsAcc { l with edit := setBody id body l.edit } :=
  .of_fields rfl rfl rfl (fun empty => by dsimp only; rw [empty]; rfl) fun empty => empty

theorem Works.Acc.discardLetter {k : Works} (h : k.Acc) {i : Nat} (loose : (k.letter i).state ≠ .attached) :
    (k.discardLetter i).Acc := by
  unfold Works.discardLetter
  rw [Works.giveBack_eq_given]
  refine h.set_letter rfl rfl rfl ⟨fun c => ?_, fun _ => Letter.freeRecord_sound⟩ (fun _ => ?_) fun beyond => ?_
  · exact ⟨fun h => (nomatch h.1), fun h => absurd h.1 loose⟩
  · simp [Works.given, Letter.freeRecord, Letter.entryCount]
  · have default : k.letter i = Letter.freeRecord := by simp [Works.letter, Nat.le_of_not_lt beyond]
    simp [Works.given, default, Letter.freeRecord, Letter.entryCount]

theorem Works.takeForFeed_fields (k : Works) (entries slots : Nat) :
    (k.takeForFeed entries slots).chans = k.chans ∧ (k.takeForFeed entries slots).letters = k.letters ∧
      (k.takeForFeed entries slots).job = k.job ∧ (k.takeForFeed entries slots).freeEntries = k.freeEntries - entries ∧
      (k.takeForFeed entries slots).freePool = k.freePool.drop slots ∧
      (k.takeForFeed entries slots).nextEntry = k.nextEntry + entries := by
  unfold Works.takeForFeed
  dsimp only
  rw [Works.entriesTaken_eq]
  split
  · exact ⟨rfl, rfl, rfl, rfl, rfl, rfl⟩
  · rw [Works.slotsTaken_eq]
    exact ⟨rfl, rfl, rfl, rfl, rfl, rfl⟩

/-- What a FEED leaves of the channel besides queue and positions (R149). -/
theorem Channel.feedWith_fields (ch : Channel) (rs : List FedRecord) (added : List FeedRec) :
    (ch.feedWith rs added).kind = ch.kind ∧ (ch.feedWith rs added).state = ch.state ∧
      (ch.feedWith rs added).letter = ch.letter ∧ (ch.feedWith rs added).feed = ch.feed ++ added ∧
      (ch.feedWith rs added).capture = ch.capture ∧ (ch.feedWith rs added).det = ch.det := by
  unfold Channel.feedWith
  dsimp only
  rw [Channel.prepareFeed_eq]
  exact ⟨rfl, rfl, rfl, rfl, rfl, rfl⟩

theorem Works.Acc.freeTail {k : Works} (h : k.Acc) (c : Nat) : (k.freeTail c).Acc := by
  unfold Works.freeTail
  dsimp only
  split
  · exact h
  · rename_i p _
    rw [Works.giveBack_eq_given]
    generalize (fun r : FeedRec => r.behind (p - (k.chan c).settings.backspace)) = behind
    have whole : (List.takeWhile behind (k.chan c).feed).length + (List.dropWhile behind (k.chan c).feed).length =
        (k.chan c).feed.length := by rw [← List.length_append, List.takeWhile_append_dropWhile]
    refine h.set_chan rfl rfl h.job (.of_fields rfl Iff.rfl rfl fun empty => ?_) (fun _ => ?_) fun beyond => ?_
    · dsimp only
      rw [empty]
      rfl
    · simp only [Works.given, Works.modChan]
      omega
    · have default : k.chan c = Channel.initial := by simp [Works.chan, Nat.le_of_not_lt beyond]
      rw [default]
      rfl

/-- The letter of a capture that splits a run (R64). -/
theorem Works.letters_markedSplit (k : Works) (c i : Nat) (g : Channel → Channel) (marked : Letter → Letter)
    (edit : List Entry) :
    (((k.modLetter i marked).modChan c g).modLetter i fun l => { l with edit := edit }).letters =
      k.letters.set i { marked (k.letter i) with edit := edit } := by
  rw [Works.modLetter_modChan, Works.modLetter_modLetter]
  rfl

theorem Works.acc_moves : Works.Moves fun k k' => k.Acc → k'.Acc where
  toSpanMoves := Works.acc_spanMoves
  clearEvent _ _ h := h.of_same rfl rfl rfl rfl
  freeTail _ c h := h.freeTail c
  reviewOn f _ _ _ _ calm h := h.modChan (.of_fields calm.kind calm.closed calm.letter fun empty => by
    have same := calm.feed_length
    rw [empty] at same
    exact List.length_eq_zero_iff.1 same) calm.feed_length
  reviewOver f _ _ _ _ calm h := Works.Acc.calm (h.modLetter (.of_fields rfl rfl rfl id id) rfl) calm
  reviewStart {k c i} o ready _ _ h := by
    refine h.set_chan rfl rfl h.job (.of_fields rfl ?_ rfl id) (fun _ => rfl) fun _ => rfl
    rw [ready]
    exact ⟨(nomatch ·), (nomatch ·)⟩
  grantEncode k c _ h := by
    unfold Works.grantEncode
    dsimp only
    split
    · exact h
    · rename_i w waiting
      refine h.set_chan rfl rfl (fun j hj => ?_) (.of_fields rfl Iff.rfl rfl id) (fun _ => rfl) fun _ => rfl
      cases hj
      show (k.chan c).letter.getD 0 < Config.letterCount
      cases letter : (k.chan c).letter with
      | none => exact Nat.zero_lt_succ 31
      | some i => exact h.letters ▸ (h.letter_of_chan letter).1
  decodeJob {k c source} id side generation f _ names calm h := by
    refine h.set_chan rfl rfl (fun j hj => ?_) (.of_calm calm) (fun _ => by rw [calm.feed_length]; rfl) fun _ => rfl
    cases hj
    cases source with
    | letter i =>
      show i < Config.letterCount
      rw [← h.letters]
      exact (h.letter_of_chan (names i rfl)).1
    | feedQueue => trivial
  coded {k c i entry width base w} carry _ _ h := by
    obtain ⟨body, -, letters, chans, job, free, -⟩ := k.codeEntry_fields c i entry
    have coded : (k.codeEntry c i entry).1.Acc :=
      h.set_letter letters chans job (.setBody _ _ _) (fun _ => by simp [free, Letter.entryCount, setBody_length])
        fun _ => free
    exact coded.set_chan rfl rfl (fun _ hj => nomatch hj) (.of_fields rfl Iff.rfl rfl id) (fun _ => rfl) fun _ => rfl
  dropJob _ h := h.of_kept rfl rfl (fun _ => .refl _) (fun _ => .refl _) (fun _ hj => nomatch hj) h.entries
  lose {k c entry slot source} _ h := by
    refine Works.Acc.retireAtRun ?_ slot
    cases source with
    | letter i =>
      refine Works.Acc.applySealing (h.modLetter (.setBody _ _ _) ?_) i
      simp [Letter.entryCount, setBody_length]
    | feedQueue =>
      refine h.modChan (f := fun ch => { ch with feed := loseRecord entry ch.feed }) (.of_fields rfl Iff.rfl rfl fun empty => ?_)
        (List.length_map _)
      dsimp only
      rw [empty]
      rfl
  cursorTo _ _ _ h := h.modLetter (.of_fields rfl rfl rfl id id) rfl
  openLetter {k c i} job channel closed found h := by
    obtain ⟨exists_, free⟩ := Works.findFree_spec found
    obtain ⟨-, no_letter, no_feed⟩ := h.closed closed
    obtain ⟨no_edit, no_sealed⟩ := (h.letter i).1 free
    have inside : c < k.chans.length := h.chans ▸ channel
    refine h.of_sets rfl rfl inside exists_ rfl (.opened no_feed) (by simp [Letter.Sound, Letter.opened, Letter.freeRecord])
      (h.attach rfl rfl inside exists_ no_letter (by rw [free]; exact (nomatch ·)) rfl rfl rfl) rfl ?_
    show k.freeEntries + (Letter.opened job c).entryCount = k.freeEntries + (k.letter i).entryCount
    rw [Letter.entryCount, Letter.entryCount, no_edit, no_sealed]
    rfl
  joined {k c i job} channel closed found detached h := by
    have exists_ := Works.lt_of_findJob found
    obtain ⟨-, no_letter, no_feed⟩ := h.closed closed
    have inside : c < k.chans.length := h.chans ▸ channel
    have taken := (h.letter i).2.2
    exact h.of_sets rfl rfl inside exists_ rfl (.opened no_feed) ⟨(nomatch ·), (nomatch ·), taken⟩
      (h.attach rfl rfl inside exists_ no_letter (by rw [detached]; exact (nomatch ·)) rfl rfl rfl) rfl rfl
  detachLetter {k c i} _ _ holds h := by
    have taken := (h.letter i).2.2
    exact h.release rfl rfl holds.letter rfl (nomatch ·) ⟨(nomatch ·), (nomatch ·), taken⟩ rfl
  endLetter {k c i} _ _ holds h := by
    have taken := (h.letter i).2.2
    exact h.release rfl rfl holds.letter rfl (nomatch ·) ⟨(nomatch ·), fun _ => rfl, taken⟩
      (congrArg _ (Letter.entryCount_ended _))
  discardChannel {k c i} _ _ holds h := by
    unfold Works.discardLetter
    rw [Works.giveBack_eq_given]
    refine h.release rfl rfl holds.letter rfl (nomatch ·) Letter.freeRecord_sound ?_
    simp [Works.given, Letter.freeRecord, Letter.entryCount]
  discardLetter _ loose h := h.discardLetter loose
  truncated {k c i} _ letter h := by
    obtain ⟨-, attached, -⟩ := h.letter_of_chan letter
    have size := (k.letter i).truncated_length (k.letter i).cursor
    rw [Works.giveBack_eq_given]
    refine h.set_letter rfl rfl rfl (.of_attached attached rfl rfl rfl) (fun _ => ?_)
      fun beyond => absurd (Works.lt_of_letter_state (by simp [attached])) beyond
    simp only [Works.given, Works.modLetter_freeEntries, Letter.cutOffAtCursor, Letter.entryCount]
    omega
  marked {k c i kind} label _ _ _ h := by
    refine Works.Acc.modChan (h.modLetter (.of_fields rfl rfl rfl id id) rfl) ?_ ?_ <;>
      unfold Channel.endGrowth <;> split
    · exact .of_fields rfl Iff.rfl rfl id
    · exact .refl _
    · rfl
    · rfl
  markedSplit {k c i kind edit} label letter _ split_ enough h := by
    obtain ⟨-, attached, -⟩ := h.letter_of_chan letter
    have size := Letter.splitRun_length split_
    have marked : (k.modChan c Channel.endGrowth).Acc := by
      refine h.modChan ?_ ?_ <;> unfold Channel.endGrowth <;> split
      · exact .of_fields rfl Iff.rfl rfl id
      · exact .refl _
      · rfl
      · rfl
    have exists_ : i < k.letters.length := Works.lt_of_letter_state (by simp [attached])
    refine marked.set_letter (i := i) (l := { (k.letter i).withMark kind label (k.capturePoint c i) with edit := edit })
      ?_ rfl rfl (.of_attached attached rfl rfl rfl) (fun _ => ?_) fun beyond => absurd exists_ beyond
    · exact k.letters_markedSplit c i Channel.endGrowth (fun l => l.withMark kind label (k.capturePoint c i)) edit
    · show k.freeEntries - 1 + ((k.letter i).sealedList.length + edit.length) =
        k.freeEntries + ((k.letter i).sealedList.length + (k.letter i).edit.length)
      omega
  take _ found took h := (Works.acc_takeMoves _).takeFrom (Works.lt_of_findJob found) took h
  load {k c} channel closed h := by
    obtain ⟨kind, no_letter, no_feed⟩ := h.closed closed
    refine h.set_chan rfl rfl h.job ⟨no_letter.symm, fun _ => ?_⟩ (fun _ => by rw [no_feed]; rfl) fun _ => rfl
    exact ⟨⟨(nomatch ·), (nomatch ·)⟩, ⟨(nomatch ·), fun no => absurd rfl no⟩, fun _ => rfl⟩
  feed {k c rs} channel opened plays room h := by
    obtain ⟨chans, letters, job, free, -, -⟩ :=
      (k.modChan c fun ch => ch.feedWith rs (queued k.nextEntry k.freePool rs)).takeForFeed_fields rs.length
        (fedFrames rs).length
    obtain ⟨kind, state, letter, queue, -, -⟩ := (k.chan c).feedWith_fields rs (queued k.nextEntry k.freePool rs)
    simp only [Works.hasRoom, Bool.and_eq_true, decide_eq_true_eq] at room
    obtain ⟨⟨-, enough⟩, -⟩ := room
    refine h.set_chan chans letters (fun j hj => h.job j (job ▸ hj)) ⟨letter, fun ⟨open_, dictates, _⟩ => ?_⟩ (fun _ => ?_)
      fun beyond => absurd (h.chans ▸ channel) beyond
    · refine ⟨by rw [state, kind]; exact open_, by rw [kind, letter]; exact dictates, fun no_play => ?_⟩
      rw [kind] at no_play
      cases which : (k.chan c).kind with
      | noKind => exact absurd (open_.2 which) opened
      | dictation => exact absurd which plays
      | transcription => exact absurd which no_play
    · rw [free, queue, List.length_append, queued_length]
      show k.freeEntries - rs.length + _ = _
      omega

/-! ### UNLOAD and the starts -/

theorem Works.Acc.unloadChan {k : Works} (h : k.Acc) {c : Nat} (channel : c < Config.channelCount)
    (plays : (k.chan c).kind ≠ .dictation) : (k.unloadChan c).Acc := by
  unfold Works.unloadChan
  rw [Works.giveBack_eq_given]
  refine h.set_chan rfl rfl h.job ⟨(h.no_letter plays).symm, fun _ => ?_⟩ (fun _ => ?_)
    fun beyond => absurd (h.chans ▸ channel) beyond
  · refine ⟨by simp [Channel.unload, Channel.close], by simp [Channel.unload, Channel.close], fun _ => rfl⟩
  · simp [Works.given, Channel.unload]

/-- CHECKING touches neither channels nor letters nor entries. -/
theorem Works.check_fields (k : Works) (st : Store) (errs : List CellError) (cause : Cause) (upTo : Nat) :
    (k.check st errs cause upTo).chans = k.chans ∧ (k.check st errs cause upTo).letters = k.letters ∧
      (k.check st errs cause upTo).job = k.job ∧ (k.check st errs cause upTo).freeEntries = k.freeEntries ∧
      (k.check st errs cause upTo).nextEntry = k.nextEntry := by
  have checked := k.checkTo_eq st errs upTo
  unfold Works.check
  dsimp only at checked ⊢
  generalize k.checkTo st errs upTo = k1 at checked
  have read : k1.chans = k.chans ∧ k1.letters = k.letters ∧ k1.job = k.job ∧ k1.freeEntries = k.freeEntries ∧
      k1.nextEntry = k.nextEntry := by
    rw [checked]
    exact ⟨rfl, rfl, rfl, rfl, rfl⟩
  split
  · unfold Works.endScan
    generalize k1.goodSlots = good
    split
    · rw [Works.raiseDevice, Works.raiseWith_eq]
      exact read
    · exact read
  · exact read

theorem Letter.restarted_entryCount (l : Letter) : l.restarted.entryCount = l.entryCount := by
  simp [Letter.restarted, Letter.entryCount]

theorem getD_map_cases {α β : Type} (f : α → β) (xs : List α) (n : Nat) (d : α) (e : β) :
    (xs.map f).getD n e = f (xs.getD n d) ∨ (xs.map f).getD n e = e := by
  by_cases inside : n < xs.length
  · exact .inl (by simp [List.getD_eq_getElem?_getD, inside])
  · exact .inr (List.getD_eq_default _ _ (by simpa using inside))

/-- RESTART KEEP returns the entries of the feed queues; letters keep theirs (R59, R193). -/
theorem Works.Acc.restarted {k : Works} (h : k.Acc) : k.restarted.Acc := by
  have chan (c : Nat) : k.restarted.chan c = (k.chan c).restarted ∨ k.restarted.chan c = Channel.initial :=
    getD_map_cases Channel.restarted k.chans c _ _
  have letter (i : Nat) : k.restarted.letter i = (k.letter i).restarted ∨ k.restarted.letter i = Letter.freeRecord :=
    getD_map_cases Letter.restarted k.letters i _ _
  have unattached (i : Nat) : (k.restarted.letter i).state ≠ .attached := by
    rcases letter i with same | same <;> rw [same]
    · unfold Letter.restarted
      dsimp only
      split
      · exact (nomatch ·)
      · assumption
    · exact (nomatch ·)
  refine ⟨by simp [Works.restarted, Works.rearmMarks, h.chans], by simp [Works.restarted, Works.rearmMarks, h.letters],
    fun c => ?_, fun i => ?_, fun c i _ => ?_, fun j hj => (nomatch hj), ?_⟩
  · rcases chan c with same | same <;> rw [same]
    · exact ⟨⟨fun _ => rfl, fun _ => rfl⟩, ⟨(nomatch ·), fun no => absurd rfl no⟩, fun _ => rfl⟩
    · exact Channel.initial_sound
  · rcases letter i with same | same
    · obtain ⟨free, ending, taken⟩ := h.letter i
      have state : (k.letter i).restarted.state = .free ∨ (k.letter i).restarted.state = .sealing →
          (k.letter i).restarted.state = (k.letter i).state := by
        unfold Letter.restarted
        dsimp only
        split
        · exact (·.elim (nomatch ·) (nomatch ·))
        · exact fun _ => rfl
      rw [same]
      refine ⟨fun freed => ?_, fun sealing => ?_, taken⟩
      · obtain ⟨no_edit, no_sealed⟩ := free ((state (.inl freed)).symm.trans freed)
        exact ⟨by rw [Letter.restarted, no_edit]; rfl, no_sealed⟩
      · have no_edit := ending ((state (.inr sealing)).symm.trans sealing)
        rw [Letter.restarted, no_edit]
        rfl
    · rw [same]
      exact Letter.freeRecord_sound
  · refine ⟨fun names => ?_, fun holds => absurd holds.2.1 (unattached i)⟩
    rcases chan c with same | same <;> rw [same] at names <;> exact nomatch names
  · have before := h.entries
    have letters : k.restarted.letterEntries = k.letterEntries := by
      show ((k.letters.map Letter.restarted).map Letter.entryCount).sum = _
      rw [List.map_map]
      exact congrArg List.sum (List.map_congr_left fun l _ => l.restarted_entryCount)
    have feeds : k.restarted.feedEntries = 0 := by
      show ((k.chans.map Channel.restarted).map fun ch => ch.feed.length).sum = 0
      rw [List.map_map]
      exact List.sum_eq_zero fun n hn => by
        obtain ⟨ch, -, rfl⟩ := List.mem_map.1 hn
        rfl
    have freed : k.restarted.freeEntries = k.freeEntries + k.feedEntries := by
      show k.freeEntries + (k.chans.flatMap Channel.feed).length = _
      rw [List.length_flatMap, Works.feedEntries]
    rw [Works.EntriesAddUp] at before ⊢
    omega

theorem Works.Change.acc {k k' : Works} (h : k.Change k') (acc : k.Acc) : k'.Acc := by
  cases h with
  | moved moves => exact moves _ Works.acc_moves acc
  | unloaded c channel opened plays => exact acc.unloadChan channel plays
  | started => exact (Works.accounted_iff _).1 (Works.start_accounted _ _)
  | loaded scan => exact acc.of_same rfl rfl rfl rfl
  | written scan => exact acc.of_same rfl rfl rfl rfl
  | checked st errs cause upTo scan =>
    obtain ⟨chans, letters, job, free, -⟩ := k.check_fields st errs cause upTo
    exact acc.of_same chans letters job free
  | kept scan_done => exact acc.restarted.raiseWith _ _ _ _

/-- Settles O57: each move takes from the pool what letters and queues gain, and gives back what they lose. -/
theorem entriesAddUpAtEveryStep : Obligations.EntriesAddUpAtEveryStep := fun _ _ accounted h =>
  (Works.accounted_iff _).2 ((step_works_change h).acc ((Works.accounted_iff _).1 accounted))

end Sys2Proof.Machine

/-! PROOFS. The order within one letter, and of a channel with its letter: what each change of an edit list does to the
numbers, the spans and the places of its entries (R38 to R44, R48, R49, R58, R64). -/

namespace Sys2Proof.Machine

/-! ### Numbers of entries (log 11) -/

/-- How often a number stands among entries. -/
def idCount (x : Nat) (es : List Entry) : Nat := (es.map Entry.id).count x

theorem nodup_ids_iff (es : List Entry) : (es.map Entry.id).Nodup ↔ ∀ x, idCount x es ≤ 1 := List.nodup_iff_count_le_one

theorem exists_id_iff (x : Nat) (es : List Entry) : (∃ e ∈ es, e.id = x) ↔ 0 < idCount x es := by
  rw [idCount, List.count_pos_iff, List.mem_map]

@[simp] theorem idCount_append (x : Nat) (a b : List Entry) : idCount x (a ++ b) = idCount x a + idCount x b := by
  rw [idCount, List.map_append, List.count_append, idCount, idCount]

@[simp] theorem idCount_cons (x : Nat) (e : Entry) (es : List Entry) :
    idCount x (e :: es) = idCount x es + if e.id = x then 1 else 0 := by
  rw [idCount, List.map_cons, List.count_cons, idCount]
  simp only [beq_iff_eq]

@[simp] theorem idCount_nil (x : Nat) : idCount x [] = 0 := rfl

theorem idCount_runPiece (x id : Nat) (kind : RunKind) (n : Nat) :
    idCount x (runPiece id kind n) ≤ if id = x then 1 else 0 := by
  unfold runPiece
  split <;> simp

theorem idCount_bumpRun (x id : Nat) (es : List Entry) : idCount x (bumpRun id es) = idCount x es := by
  have same (e : Entry) : (match e.body with
      | .run kind n => if e.id = id then { e with body := .run kind (n + 1) } else e
      | .speech _ => e : Entry).id = e.id := by
    split
    · split <;> rfl
    · rfl
  rw [idCount, bumpRun, List.map_map]
  exact congrArg _ (List.map_congr_left fun e _ => same e)

theorem Letter.idCount_cut (x : Nat) (l : Letter) (p : Nat) :
    idCount x l.edit = idCount x (l.cut p).before + idCount x (l.cut p).rest := by
  rw [← idCount_append, l.cut_append]

/-- A placement brings in the new number and that of a piece split off. -/
theorem idCount_planEntry (x : Nat) (mode : RecMode) (l : Letter) (w : Nat) (new : Entry) (spare : Nat) :
    idCount x (planEntry mode l w new spare).edit ≤
      idCount x l.edit + (if new.id = x then 1 else 0) + if spare = x then 1 else 0 := by
  have whole := l.idCount_cut x w
  have front_piece (e : Entry) (kind : RunKind) (n : Nat) := idCount_runPiece x e.id kind n
  have back_piece (kind : RunKind) (n : Nat) := idCount_runPiece x spare kind n
  cases mode with
  | insert =>
    show idCount x (planInsert l w new spare).edit ≤ _
    unfold planInsert
    dsimp only
    split
    · rename_i rest
      rw [rest] at whole
      simp only [idCount_append, idCount_cons, idCount_nil] at whole ⊢
      omega
    · rename_i e post rest
      rw [rest, idCount_cons] at whole
      split
      · simp only [idCount_append, idCount_cons]
        omega
      · rename_i kind n _
        split
        · simp only [idCount_append, idCount_cons]
          omega
        · have front := front_piece e kind (w - (l.cut w).start)
          have back := back_piece kind (n - (w - (l.cut w).start))
          simp only [idCount_append, idCount_cons]
          omega
  | overwrite =>
    show idCount x (planOverwrite l w new spare).edit ≤ _
    unfold planOverwrite
    dsimp only
    split
    · rename_i rest
      rw [rest] at whole
      simp only [idCount_append, idCount_cons, idCount_nil] at whole ⊢
      omega
    · rename_i e post rest
      rw [rest, idCount_cons] at whole
      split
      · simp only [idCount_append, idCount_cons]
        omega
      · rename_i kind n _
        split
        · have back := front_piece e kind ((l.cut w).start + n - 1 - w)
          simp only [idCount_append, idCount_cons]
          omega
        · have front := front_piece e kind (w - (l.cut w).start)
          have back := back_piece kind ((l.cut w).start + n - 1 - w)
          simp only [idCount_append, idCount_cons]
          omega

theorem idCount_planGrowth (x : Nat) (mode : RecMode) (l : Letter) (w id : Nat) :
    idCount x (planGrowth mode l w id).edit ≤ idCount x l.edit := by
  have whole := l.idCount_cut x w
  cases mode with
  | insert => exact (idCount_bumpRun x id l.edit).le
  | overwrite =>
    show idCount x (growOverwrite l w id).edit ≤ _
    unfold growOverwrite
    dsimp only
    split
    · rw [idCount_bumpRun]
      omega
    · rename_i e post rest
      rw [rest, idCount_cons] at whole
      split
      · simp only [idCount_append, idCount_bumpRun]
        omega
      · rename_i kind n _
        have piece := idCount_runPiece x e.id kind (n - 1)
        simp only [idCount_append, idCount_bumpRun]
        omega

theorem Letter.idCount_splitRun {l : Letter} {p spare : Nat} {edit : List Entry} (h : l.splitRun p spare = some edit)
    (x : Nat) : idCount x edit = idCount x l.edit + if spare = x then 1 else 0 := by
  have whole := l.idCount_cut x p
  unfold Letter.splitRun at h
  dsimp only at h
  split at h
  · rename_i id kind n post rest
    split at h
    · cases h
      rw [rest, idCount_cons] at whole
      simp only [idCount_append, idCount_cons] at whole ⊢
      omega
    · exact nomatch h
  · exact nomatch h

theorem Letter.idCount_truncated (x : Nat) (l : Letter) (c : Nat) : idCount x (l.truncated c) ≤ idCount x l.edit := by
  have whole := l.idCount_cut x c
  unfold Letter.truncated
  dsimp only
  split
  · rename_i id kind n post rest
    rw [rest, idCount_cons] at whole
    have piece := idCount_runPiece x id kind (c - (l.cut c).start)
    simp only [idCount_append]
    dsimp only at whole
    omega
  · omega

/-- Where a number stands once, the list is cut around it in one way. -/
theorem split_unique {b b' a a' : List Entry} {e e' : Entry} (once : ((b ++ e :: a).map Entry.id).Nodup)
    (same : b ++ e :: a = b' ++ e' :: a') (id : e'.id = e.id) : b' = b ∧ e' = e ∧ a' = a := by
  induction b generalizing b' with
  | nil =>
    cases b' with
    | nil =>
      simp only [List.nil_append, List.cons.injEq] at same
      exact ⟨rfl, same.1.symm, same.2.symm⟩
    | cons x b' =>
      simp only [List.nil_append, List.cons_append, List.cons.injEq] at same
      obtain ⟨rfl, rfl⟩ := same
      rw [List.nil_append, List.map_cons, List.nodup_cons] at once
      exact absurd (List.mem_map.2 ⟨e', by simp, id⟩) once.1
  | cons x b ih =>
    rw [List.cons_append, List.map_cons, List.nodup_cons] at once
    cases b' with
    | nil =>
      simp only [List.nil_append, List.cons_append, List.cons.injEq] at same
      obtain ⟨rfl, rfl⟩ := same
      exact absurd (List.mem_map.2 ⟨e, by simp, id.symm⟩) once.1
    | cons y b' =>
      simp only [List.cons_append, List.cons.injEq] at same
      obtain ⟨rfl, same⟩ := same
      obtain ⟨rfl, rfl, rfl⟩ := ih once.2 same
      exact ⟨rfl, rfl, rfl⟩

/-! ### Entries that keep their places -/

/-- What of an entry gives the places of a list: its number and the positions it covers. -/
def Entry.extent (e : Entry) : Nat × Nat := (e.id, e.count)

theorem spanOf_extents {es es' : List Entry} (same : es'.map Entry.extent = es.map Entry.extent) : spanOf es' = spanOf es := by
  have counts (xs : List Entry) : spanOf xs = ((xs.map Entry.extent).map Prod.snd).sum := by rw [List.map_map]; rfl
  rw [counts, same, ← counts]

theorem idCount_extents {es es' : List Entry} (same : es'.map Entry.extent = es.map Entry.extent) (x : Nat) :
    idCount x es' = idCount x es := by
  have ids (xs : List Entry) : xs.map Entry.id = (xs.map Entry.extent).map Prod.fst := by rw [List.map_map]; rfl
  rw [idCount, ids, same, ← ids, idCount]

theorem covers_extents {es es' : List Entry} (same : es'.map Entry.extent = es.map Entry.extent)
    (covers : ∀ e ∈ es, 1 ≤ e.count) : ∀ e ∈ es', 1 ≤ e.count := fun e he => by
  have there : e.extent ∈ es.map Entry.extent := same ▸ List.mem_map_of_mem he
  obtain ⟨f, hf, extent⟩ := List.mem_map.1 there
  have counts : f.count = e.count := congrArg Prod.snd extent
  rw [← counts]
  exact covers f hf

theorem split_extents {es es' b a : List Entry} {e : Entry} (same : es'.map Entry.extent = es.map Entry.extent)
    (h : es' = b ++ e :: a) :
    ∃ b' e' a', es = b' ++ e' :: a' ∧ spanOf b' = spanOf b ∧ e'.id = e.id ∧ e'.count = e.count := by
  rw [h, List.map_append, List.map_cons] at same
  obtain ⟨b', rest, rfl, front, back⟩ := List.map_eq_append_iff.1 same.symm
  obtain ⟨e', a', rfl, extent, -⟩ := List.map_eq_cons_iff.1 back
  exact ⟨b', e', a', rfl, spanOf_extents front, congrArg Prod.fst extent, congrArg Prod.snd extent⟩

theorem setBody_append (id : Nat) (body : EntryBody) (a b : List Entry) :
    setBody id body (a ++ b) = setBody id body a ++ setBody id body b := List.map_append

theorem setBody_of_absent {id : Nat} {es : List Entry} (h : ∀ e ∈ es, e.id ≠ id) (body : EntryBody) :
    setBody id body es = es := by
  unfold setBody
  conv_rhs => rw [← List.map_id es]
  exact List.map_congr_left fun e he => if_neg (h e he)

/-- The one entry with a number takes a new body. -/
theorem setBody_of_split {before after : List Entry} {e : Entry} (once : ((before ++ e :: after).map Entry.id).Nodup)
    (body : EntryBody) : setBody e.id body (before ++ e :: after) = before ++ ⟨e.id, body⟩ :: after := by
  rw [List.map_append, List.nodup_append] at once
  obtain ⟨-, back, apart⟩ := once
  rw [List.map_cons, List.nodup_cons] at back
  have before_absent : ∀ f ∈ before, f.id ≠ e.id := fun f hf =>
    apart f.id (List.mem_map_of_mem hf) e.id (List.mem_cons_self ..)
  have after_absent : ∀ f ∈ after, f.id ≠ e.id := fun f hf same => back.1 (List.mem_map.2 ⟨f, hf, same⟩)
  rw [setBody_append, setBody_of_absent before_absent, ← List.singleton_append (x := e), setBody_append,
    setBody_of_absent after_absent]
  simp [setBody]

theorem setBody_extents {before after : List Entry} {e : Entry} (once : ((before ++ e :: after).map Entry.id).Nodup)
    {body : EntryBody} (same : body.count = e.count) :
    (setBody e.id body (before ++ e :: after)).map Entry.extent = (before ++ e :: after).map Entry.extent := by
  have extent : (⟨e.id, body⟩ : Entry).extent = e.extent := congrArg (Prod.mk e.id) same
  rw [setBody_of_split once, List.map_append, List.map_cons, extent, List.map_append, List.map_cons]

/-! ### A letter's places -/

/-- What every change keeps of the order within a letter (R38, R39, R61), with a number of its own for each entry. -/
structure Letter.Spans (l : Letter) : Prop where
  covers : ∀ e ∈ l.edit, 1 ≤ e.count
  length : l.length = l.sealB + spanOf l.edit
  low : l.sealB ≤ l.cursor
  high : l.cursor ≤ l.length
  ids : (l.edit.map Entry.id).Nodup
  marks : ∀ m ∈ l.marks, m.pos ≤ l.length

theorem Letter.freeRecord_spans : Letter.freeRecord.Spans :=
  ⟨fun _ h => (nomatch h), rfl, Nat.le_refl _, Nat.le_refl _, List.nodup_nil, fun _ h => (nomatch h)⟩

/-- A letter whose edit list, places and marks are as before, but for marks that have left. -/
theorem Letter.Spans.of_fields {l l' : Letter} (h : l.Spans) (edit : l'.edit = l.edit) (cursor : l'.cursor = l.cursor)
    (sealB : l'.sealB = l.sealB) (length : l'.length = l.length) (marks : ∀ m ∈ l'.marks, m ∈ l.marks) : l'.Spans where
  covers := by rw [edit]; exact h.covers
  length := by rw [length, sealB, edit]; exact h.length
  low := by rw [sealB, cursor]; exact h.low
  high := by rw [length, cursor]; exact h.high
  ids := by rw [edit]; exact h.ids
  marks m hm := by rw [length]; exact h.marks m (marks m hm)

/-- A channel in step with its letter: its growing run ends at the write point, its review plays inside the letter, and each
frame it has captured has its PENDING entry before the write point. -/
structure Channel.InStep (ch : Channel) (l : Letter) : Prop where
  silent : ch.state ≠ .recording → ch.det.growing = none
  grows : ∀ before e after, l.edit = before ++ e :: after → ch.det.growing = some e.id →
    l.sealB + spanOf before + e.count = l.cursor
  review : ch.state = .reviewing → ∃ p stop, ch.playPoint = some p ∧ ch.stopPoint = some stop ∧ l.cursor ≤ p ∧ p < stop ∧
    stop ≤ l.length
  busy : ch.capture ≠ [] → ch.state = .recording ∨ ch.state = .draining
  frames : ∀ w ∈ ch.capture, ∃ before after, l.edit = before ++ ⟨w.entry, .speech none⟩ :: after ∧
    l.sealB + spanOf before + 1 ≤ l.cursor
  own : (ch.capture.map WaitFrame.entry).Nodup

/-- A channel that does nothing with its letter is in step with it. -/
theorem Channel.InStep.of_rest {ch : Channel} (l : Letter) (growing : ch.det.growing = none) (review : ch.state ≠ .reviewing)
    (capture : ch.capture = []) : ch.InStep l where
  silent _ := growing
  grows before e after _ h := by
    rw [growing] at h
    exact nomatch h
  review h := absurd h review
  busy h := absurd capture h
  frames w hw := by
    rw [capture] at hw
    exact nomatch hw
  own := by
    rw [capture]
    exact List.nodup_nil

/-- A channel that neither records nor drains has captured no frame. -/
theorem Channel.InStep.idle {ch : Channel} {l : Letter} (h : ch.InStep l) (recording : ch.state ≠ .recording)
    (draining : ch.state ≠ .draining) : ch.capture = [] := by
  by_contra some_frame
  exact (h.busy some_frame).elim recording draining

/-- A calm change of a dictation channel keeps step. -/
theorem Channel.InStep.calm {ch ch' : Channel} {l : Letter} (h : ch.InStep l) (dictates : ch.kind = .dictation)
    (calm : ch.Calm ch') : ch'.InStep l where
  silent other := by
    rcases calm.growing with ended | ⟨same, goes_on⟩
    · exact ended
    · rw [same]
      exact h.silent fun recording => other (goes_on dictates recording)
  grows before e after split_ growing := by
    rcases calm.growing with ended | ⟨same, -⟩
    · rw [ended] at growing
      exact nomatch growing
    · exact h.grows before e after split_ (same ▸ growing)
  review reviewing := by
    obtain ⟨was, points⟩ := calm.review reviewing
    obtain ⟨play, stop⟩ := points.resolve_left (fun no => no dictates)
    rw [play, stop]
    exact h.review was
  busy some_frame := by
    rw [calm.capture] at some_frame
    exact (calm.frames dictates (h.busy some_frame)).resolve_right some_frame
  frames := by
    rw [calm.capture]
    exact h.frames
  own := by
    rw [calm.capture]
    exact h.own

/-- A letter whose entries keep their places keeps its channel in step, where no frame loses its entry. -/
theorem Channel.InStep.of_extents {ch : Channel} {l l' : Letter} (h : ch.InStep l)
    (extents : l'.edit.map Entry.extent = l.edit.map Entry.extent) (sealB : l'.sealB = l.sealB)
    (cursor : l'.cursor = l.cursor) (length : l'.length = l.length)
    (frames : ∀ w ∈ ch.capture, ∃ before after, l'.edit = before ++ ⟨w.entry, .speech none⟩ :: after ∧
      l'.sealB + spanOf before + 1 ≤ l'.cursor) : ch.InStep l' where
  silent := h.silent
  grows before e after split_ growing := by
    obtain ⟨b', e', a', at_, span, id, count⟩ := split_extents extents split_
    rw [sealB, cursor, ← span, ← count]
    exact h.grows b' e' a' at_ (id ▸ growing)
  review := by
    rw [cursor, length]
    exact h.review
  busy := h.busy
  frames := frames
  own := h.own

theorem Channel.InStep.of_fields {ch : Channel} {l l' : Letter} (h : ch.InStep l) (edit : l'.edit = l.edit)
    (sealB : l'.sealB = l.sealB) (cursor : l'.cursor = l.cursor) (length : l'.length = l.length) : ch.InStep l' :=
  h.of_extents (by rw [edit]) sealB cursor length (by rw [edit, sealB, cursor]; exact h.frames)

/-! ### Sealing (R48, R49) -/

theorem holderStart_le {cursor s : Nat} (es : List Entry) (h : s ≤ cursor) : holderStart cursor s es ≤ cursor := by
  induction es generalizing s with
  | nil => exact h
  | cons e es ih =>
    cases es with
    | nil => exact h
    | cons f rest =>
      unfold holderStart
      split
      · exact h
      · exact ih (by omega)

theorem Letter.sealable_low {l : Letter} (spans : l.Spans) (window : Nat) :
    l.sealB + spanOf (l.sealable window).1 ≤ l.cursor := by
  by_cases nothing : (l.sealable window).1 = []
  · rw [nothing]
    exact spans.low
  · have bounded := (sealSplit_sealed (min (l.length - window) (holderStart l.cursor l.sealB l.edit)) l.sealB l.edit).2
      nothing
    have before := holderStart_le l.edit spans.low
    exact (bounded.trans (Nat.min_le_right _ _)).trans before

theorem Letter.Spans.sealEntries {l : Letter} (h : l.Spans) (window : Nat) :
    (l.sealEntries (l.sealable window).1 (l.sealable window).2).Spans := by
  have whole := l.sealable_append window
  have low := Letter.sealable_low h window
  refine ⟨fun e he => h.covers e (whole ▸ List.mem_append_right _ he), ?_, low, h.high, ?_,
    fun m hm => h.marks m (List.mem_of_mem_filter hm)⟩
  · show l.length = l.sealB + spanOf (l.sealable window).1 + spanOf (l.sealable window).2
    rw [h.length, Nat.add_assoc, ← spanOf_append, whole]
  · have ids := h.ids
    rw [← whole, List.map_append] at ids
    exact ids.of_append_right

theorem Channel.InStep.sealEntries {ch : Channel} {l : Letter} (h : ch.InStep l) (window : Nat) :
    ch.InStep (l.sealEntries (l.sealable window).1 (l.sealable window).2) where
  silent := h.silent
  grows before e after split_ growing := by
    have whole := l.sealable_append window
    change (l.sealable window).2 = before ++ e :: after at split_
    rw [split_, ← List.append_assoc] at whole
    have at_cursor := h.grows _ e after whole.symm growing
    rw [spanOf_append] at at_cursor
    show l.sealB + spanOf (l.sealable window).1 + spanOf before + e.count = l.cursor
    omega
  review := h.review
  busy := h.busy
  frames w hw := by
    obtain ⟨before, after, split_, early⟩ := h.frames w hw
    have whole := (l.sealable_append window).trans split_
    obtain ⟨coded, -⟩ := sealSplit_sealed (min (l.length - window) (holderStart l.cursor l.sealB l.edit)) l.sealB l.edit
    rcases List.append_eq_append_iff.1 whole with ⟨mid, rfl, kept⟩ | ⟨mid, moved, kept⟩
    · refine ⟨mid, after, kept, ?_⟩
      rw [spanOf_append] at early
      show l.sealB + spanOf (l.sealable window).1 + spanOf mid + 1 ≤ l.cursor
      omega
    · cases mid with
      | nil =>
        rw [List.append_nil] at moved
        refine ⟨[], after, kept.symm, ?_⟩
        show l.sealB + spanOf (l.sealable window).1 + spanOf [] + 1 ≤ l.cursor
        rw [moved]
        exact early
      | cons f mid =>
        rw [List.cons_append] at kept
        obtain ⟨rfl, -⟩ := List.cons.inj kept
        have sealed_ := coded ⟨w.entry, .speech none⟩ (by
          show _ ∈ (l.sealable window).1
          rw [moved]
          simp)
        exact nomatch sealed_
  own := h.own

end Sys2Proof.Machine

/-! PROOFS. The order within a letter across placements, growth steps, completions, splits and truncation. -/

namespace Sys2Proof.Machine

/-! ### What stands before a position stays there -/

/-- An entry that ends at or before the position cut at stands in the part before it. -/
theorem cutAt_keeps {w s : Nat} {before after : List Entry} {e : Entry} (early : s + spanOf before + e.count ≤ w) :
    ∃ mid, (cutAt w s (before ++ e :: after)).before = before ++ e :: mid := by
  induction before generalizing s with
  | nil =>
    rw [show spanOf [] = 0 from rfl, Nat.add_zero] at early
    rw [List.nil_append, cutAt, if_pos early]
    exact ⟨_, rfl⟩
  | cons f before ih =>
    rw [spanOf_cons] at early
    have inside : s + f.count ≤ w := by omega
    rw [List.cons_append, cutAt, if_pos inside]
    obtain ⟨mid, same⟩ := ih (s := s + f.count) (by omega)
    exact ⟨mid, congrArg (f :: ·) same⟩

/-- A placement leaves what stands before the write point. -/
theorem planEntry_front (mode : RecMode) (l : Letter) (w : Nat) (new : Entry) (spare : Nat) :
    ∃ back, (planEntry mode l w new spare).edit = (l.cut w).before ++ back := by
  cases mode with
  | insert =>
    show ∃ back, (planInsert l w new spare).edit = _
    unfold planInsert
    dsimp only
    split
    · exact ⟨_, rfl⟩
    · split
      · exact ⟨_, rfl⟩
      · split
        · exact ⟨_, rfl⟩
        · exact ⟨_, List.append_assoc _ _ _⟩
  | overwrite =>
    show ∃ back, (planOverwrite l w new spare).edit = _
    unfold planOverwrite
    dsimp only
    split
    · exact ⟨_, rfl⟩
    · split
      · exact ⟨_, rfl⟩
      · split
        · exact ⟨_, rfl⟩
        · exact ⟨_, List.append_assoc _ _ _⟩

theorem marksAfter_bounded {mode : RecMode} {w bound grown : Nat} {ms : List Mark} (h : ∀ m ∈ ms, m.pos ≤ bound)
    (kept : bound ≤ grown) (longer : mode = .insert → bound + 1 ≤ grown) : ∀ m ∈ marksAfter mode w ms, m.pos ≤ grown := by
  intro m hm
  cases mode with
  | overwrite => exact (h m hm).trans kept
  | insert =>
    obtain ⟨old, there, rfl⟩ := List.mem_map.1 hm
    have low := h old there
    have more := longer rfl
    split
    · show old.pos + 1 ≤ grown
      omega
    · omega

/-! ### Placements (R40 to R43) -/

section
variable {l : Letter} {mode : RecMode} {new : Entry} {spare : Nat}

theorem Letter.Spans.withPlan (h : l.Spans) (one : new.count = 1) (fresh : ∀ e ∈ l.edit, e.id ≠ new.id ∧ e.id ≠ spare)
    (apart : new.id ≠ spare) : (l.withPlan mode (planEntry mode l l.cursor new spare)).Spans := by
  have bound := h.length ▸ h.high
  obtain ⟨⟨front, back, puts⟩, longer, -⟩ := planEntry_puts mode new spare h.covers h.low bound
  have counts (x : Nat) := idCount_planEntry x mode l l.cursor new spare
  generalize planEntry mode l l.cursor new spare = p at *
  have span : spanOf p.edit = spanOf l.edit + if p.longer then 1 else 0 := by
    rw [puts.edit, spanOf_eq_count_of_mem, one, ← puts.span, Nat.add_right_comm]
  have starts := puts.starts
  have whole := h.length
  have reach : l.cursor + 1 ≤ l.sealB + spanOf p.edit := by
    rw [puts.edit, spanOf_eq_count_of_mem, one]
    omega
  have length : (if p.longer then l.length + 1 else l.length) = l.sealB + spanOf p.edit := by
    rw [span, whole]
    split <;> rfl
  refine ⟨?_, length, Nat.le_succ_of_le h.low, ?_, ?_, ?_⟩
  · intro e he
    rw [show (l.withPlan mode p).edit = front ++ new :: back from puts.edit] at he
    rcases List.mem_append.1 he with at_front | he
    · exact puts.covers e (List.mem_append_left _ at_front)
    · rcases List.mem_cons.1 he with rfl | at_back
      · exact one.ge
      · exact puts.covers e (List.mem_append_right _ at_back)
  · show l.cursor + 1 ≤ if p.longer then l.length + 1 else l.length
    rw [length]
    exact reach
  · refine (nodup_ids_iff _).2 fun x => (counts x).trans ?_
    have old := (nodup_ids_iff _).1 h.ids x
    have none_old : (new.id = x ∨ spare = x) → idCount x l.edit = 0 := fun which => by
      by_contra some_old
      obtain ⟨e, he, same⟩ := (exists_id_iff x l.edit).2 (Nat.pos_of_ne_zero some_old)
      obtain ⟨not_new, not_spare⟩ := fresh e he
      exact which.elim (fun e' => not_new (same.trans e'.symm)) fun e' => not_spare (same.trans e'.symm)
    by_cases at_new : new.id = x
    · rw [none_old (.inl at_new), if_pos at_new, if_neg fun at_spare => apart (at_new.trans at_spare.symm)]
    · rw [if_neg at_new]
      by_cases at_spare : spare = x
      · rw [none_old (.inr at_spare), if_pos at_spare]
      · rw [if_neg at_spare]
        exact old
  · refine marksAfter_bounded h.marks ?_ fun insert => ?_
    · show l.length ≤ if p.longer then l.length + 1 else l.length
      split
      · exact Nat.le_succ _
      · exact Nat.le_refl _
    · show l.length + 1 ≤ if p.longer then l.length + 1 else l.length
      rw [if_pos (longer.2 (.inl insert))]

/-- A new entry ends at the write point after it. -/
theorem Letter.withPlan_at (h : l.Spans) (one : new.count = 1)
    (spans : (l.withPlan mode (planEntry mode l l.cursor new spare)).Spans) {before after : List Entry} {e : Entry}
    (split_ : (planEntry mode l l.cursor new spare).edit = before ++ e :: after) (id : e.id = new.id) :
    l.sealB + spanOf before + e.count = l.cursor + 1 ∧ e = new := by
  have bound := h.length ▸ h.high
  obtain ⟨⟨front, back, puts⟩, -, -⟩ := planEntry_puts mode new spare h.covers h.low bound
  have ids : ((front ++ new :: back).map Entry.id).Nodup := by rw [← puts.edit]; exact spans.ids
  obtain ⟨rfl, rfl, rfl⟩ := split_unique ids (puts.edit.symm.trans split_) id
  rw [one, puts.starts]
  exact ⟨rfl, rfl⟩

/-- The place of a new entry. -/
theorem Letter.withPlan_split (h : l.Spans) :
    ∃ before after, (planEntry mode l l.cursor new spare).edit = before ++ new :: after ∧
      l.sealB + spanOf before = l.cursor := by
  have bound := h.length ▸ h.high
  obtain ⟨⟨front, back, puts⟩, -, -⟩ := planEntry_puts mode new spare h.covers h.low bound
  exact ⟨front, back, puts.edit, puts.starts⟩

/-- A frame's entry stays before the write point (R81). -/
theorem Letter.withPlan_frame {before after : List Entry} {f : Entry} (split_ : l.edit = before ++ f :: after)
    (early : l.sealB + spanOf before + f.count ≤ l.cursor) :
    ∃ after', (planEntry mode l l.cursor new spare).edit = before ++ f :: after' := by
  obtain ⟨back, same⟩ := planEntry_front mode l l.cursor new spare
  obtain ⟨mid, front⟩ := cutAt_keeps (after := after) early
  rw [same, Letter.cut, split_, front, List.append_assoc, List.cons_append]
  exact ⟨_, rfl⟩

end

/-! ### Growth steps (R42, R44) -/

/-- The growing run of a letter, in its place at the write point. -/
theorem Letter.growing_split {ch : Channel} {l : Letter} (step : ch.InStep l) {id n : Nat} {kind : RunKind}
    (growing : ch.det.growing = some id) (run : l.growingRun (some id) = some (kind, n)) :
    ∃ before after, l.edit = before ++ ⟨id, .run kind n⟩ :: after ∧ l.sealB + spanOf before + n = l.cursor := by
  unfold Letter.growingRun at run
  dsimp only at run
  split at run
  · rename_i held kind' n' found
    cases run
    obtain ⟨same, before, after, split_, -⟩ := List.find?_eq_some_iff_append.1 found
    obtain rfl : held = id := of_decide_eq_true same
    exact ⟨before, after, split_, step.grows before _ after split_ growing⟩
  · exact nomatch run

theorem bumpRun_covers {id : Nat} {es : List Entry} (covers : ∀ e ∈ es, 1 ≤ e.count) : ∀ e ∈ bumpRun id es, 1 ≤ e.count := by
  intro e he
  obtain ⟨old, there, rfl⟩ := List.mem_map.1 he
  have low := covers old there
  split
  · rename_i kind n body
    split
    · exact Nat.le_add_left 1 n
    · exact low
  · exact low

theorem planGrowth_covers (mode : RecMode) {l : Letter} (covers : ∀ e ∈ l.edit, 1 ≤ e.count) (w id : Nat) :
    ∀ e ∈ (planGrowth mode l w id).edit, 1 ≤ e.count := by
  cases mode with
  | insert => exact bumpRun_covers covers
  | overwrite =>
    have front : ∀ e ∈ (l.cut w).before, 1 ≤ e.count := fun e he =>
      covers e (l.cut_append w ▸ List.mem_append_left _ he)
    have back : ∀ e ∈ (l.cut w).rest, 1 ≤ e.count := fun e he =>
      covers e (l.cut_append w ▸ List.mem_append_right _ he)
    show ∀ e ∈ (growOverwrite l w id).edit, 1 ≤ e.count
    unfold growOverwrite
    dsimp only
    split
    · exact bumpRun_covers front
    · rename_i f post rest
      rw [rest] at back
      have later : ∀ e ∈ post, 1 ≤ e.count := fun e he => back e (List.mem_cons_of_mem _ he)
      split
      · intro e he
        exact (List.mem_append.1 he).elim (bumpRun_covers front e) (later e)
      · intro e he
        rcases List.mem_append.1 he with at_front | he
        · exact bumpRun_covers front e at_front
        · exact (List.mem_append.1 he).elim runPiece_covers (later e)

/-- A growth step of the run that ends at the write point. -/
structure Letter.Grown (l : Letter) (g : Growth) (before after rest : List Entry) (id n : Nat) (kind : RunKind) : Prop where
  old : l.edit = before ++ ⟨id, .run kind n⟩ :: after
  at_cursor : l.sealB + spanOf before + n = l.cursor
  new : g.edit = before ++ ⟨id, .run kind (n + 1)⟩ :: rest
  span : spanOf rest + 1 = spanOf after + if g.longer then 1 else 0

theorem Letter.grown {ch : Channel} {l : Letter} (h : l.Spans) (step : ch.InStep l) (mode : RecMode) {id n : Nat}
    {kind : RunKind} (growing : ch.det.growing = some id) (run : l.growingRun (some id) = some (kind, n)) :
    (∃ before after rest, l.Grown (planGrowth mode l l.cursor id) before after rest id n kind) ∧
      (mode = .insert → (planGrowth mode l l.cursor id).longer = true) := by
  obtain ⟨before, after, old, at_cursor⟩ := Letter.growing_split step growing run
  have ids := h.ids
  rw [old, List.map_append, List.nodup_append, List.map_cons, List.nodup_cons] at ids
  obtain ⟨-, ⟨once, -⟩, apart⟩ := ids
  have first : ∀ e ∈ before, e.id ≠ id := fun e he =>
    apart e.id (List.mem_map_of_mem he) id (List.mem_cons_self ..)
  have last : ∀ e ∈ after, e.id ≠ id := fun e he same => once (List.mem_map.2 ⟨e, he, same⟩)
  obtain ⟨⟨rest, grows⟩, longer⟩ := planGrowth_grows mode h.covers old first last
  rw [at_cursor] at grows longer
  exact ⟨⟨before, after, rest, old, at_cursor, grows.edit, grows.span⟩, fun insert => longer.2 (.inl insert)⟩

theorem Letter.Spans.withGrowth {ch : Channel} {l : Letter} (h : l.Spans) (step : ch.InStep l) (mode : RecMode) {id n : Nat}
    {kind : RunKind} (growing : ch.det.growing = some id) (run : l.growingRun (some id) = some (kind, n)) :
    (l.withGrowth mode (planGrowth mode l l.cursor id)).Spans := by
  obtain ⟨⟨before, after, rest, grown⟩, longer⟩ := Letter.grown h step mode growing run
  have counts (x : Nat) := idCount_planGrowth x mode l l.cursor id
  have covers := planGrowth_covers mode h.covers l.cursor id
  generalize planGrowth mode l l.cursor id = g at *
  obtain ⟨old, at_cursor, new, span⟩ := grown
  have whole := h.length
  have length : (if g.longer then l.length + 1 else l.length) = l.sealB + spanOf g.edit := by
    rw [whole, old, new, spanOf_eq_count_of_mem, spanOf_eq_count_of_mem, Entry.count_run, Entry.count_run]
    by_cases longer : g.longer = true
    · rw [if_pos longer] at span ⊢
      omega
    · rw [if_neg longer] at span ⊢
      omega
  refine ⟨covers, length, Nat.le_succ_of_le h.low, ?_, (nodup_ids_iff _).2 fun x => (counts x).trans ((nodup_ids_iff _).1 h.ids x),
    marksAfter_bounded h.marks ?_ fun insert => ?_⟩
  · show l.cursor + 1 ≤ if g.longer then l.length + 1 else l.length
    rw [length, new, spanOf_eq_count_of_mem, Entry.count_run]
    omega
  · show l.length ≤ if g.longer then l.length + 1 else l.length
    split
    · exact Nat.le_succ _
    · exact Nat.le_refl _
  · show l.length + 1 ≤ if g.longer then l.length + 1 else l.length
    rw [if_pos (longer insert)]

theorem Channel.InStep.withGrowth {ch : Channel} {l : Letter} (h : l.Spans) (step : ch.InStep l)
    (recording : ch.state = .recording) (mode : RecMode) {id n : Nat}
    {kind : RunKind} (growing : ch.det.growing = some id) (run : l.growingRun (some id) = some (kind, n)) :
    ch.InStep (l.withGrowth mode (planGrowth mode l l.cursor id)) := by
  have ids := (h.withGrowth step mode growing run).ids
  obtain ⟨⟨before, after, rest, grown⟩, -⟩ := Letter.grown h step mode growing run
  change ((planGrowth mode l l.cursor id).edit.map Entry.id).Nodup at ids
  refine ⟨step.silent, fun b e a split_ is_growing => ?_, fun reviewing => ?_, step.busy, fun w hw => ?_, step.own⟩
  · change (planGrowth mode l l.cursor id).edit = b ++ e :: a at split_
    rw [growing] at is_growing
    rw [grown.new] at ids split_
    obtain ⟨rfl, rfl, rfl⟩ := split_unique ids split_ (Option.some.inj is_growing).symm
    have at_cursor := grown.at_cursor
    rw [Entry.count_run]
    show l.sealB + _ + (n + 1) = l.cursor + 1
    omega
  · rw [recording] at reviewing
    exact nomatch reviewing
  · obtain ⟨b, a, split_, early⟩ := step.frames w hw
    have at_cursor := grown.at_cursor
    show ∃ b a, (planGrowth mode l l.cursor id).edit = b ++ ⟨w.entry, .speech none⟩ :: a ∧
      l.sealB + spanOf b + 1 ≤ l.cursor + 1
    rcases List.append_eq_append_iff.1 (grown.old.symm.trans split_) with ⟨mid, front, back⟩ | ⟨mid, front, back⟩
    · cases mid with
      | nil => exact nomatch (List.cons.inj back).1
      | cons f mid =>
        obtain ⟨rfl, -⟩ := List.cons.inj back
        rw [front, spanOf_eq_count_of_mem, Entry.count_run] at early
        omega
    · cases mid with
      | nil => exact nomatch (List.cons.inj back).1
      | cons f mid =>
        obtain ⟨rfl, -⟩ := List.cons.inj back
        refine ⟨b, mid ++ ⟨id, .run kind (n + 1)⟩ :: rest, ?_, by omega⟩
        rw [grown.new, front, List.append_assoc, List.cons_append]

/-! ### An entry that takes a new body (R104, R105, R109) -/

theorem Letter.Spans.setBody {l : Letter} (h : l.Spans) {before after : List Entry} {e : Entry}
    (split_ : l.edit = before ++ e :: after) {body : EntryBody} (one : body.count = e.count) :
    (({ l with edit := Machine.setBody e.id body l.edit } : Letter).edit.map Entry.extent = l.edit.map Entry.extent) ∧
      ({ l with edit := Machine.setBody e.id body l.edit } : Letter).Spans := by
  have ids := h.ids
  rw [split_] at ids
  have extents : (Machine.setBody e.id body l.edit).map Entry.extent = l.edit.map Entry.extent := by
    rw [split_]
    exact setBody_extents ids one
  refine ⟨extents, ⟨covers_extents extents h.covers, ?_, h.low, h.high, ?_, h.marks⟩⟩
  · show l.length = l.sealB + spanOf (Machine.setBody e.id body l.edit)
    rw [spanOf_extents extents]
    exact h.length
  · exact (nodup_ids_iff _).2 fun x => (idCount_extents extents x).le.trans ((nodup_ids_iff _).1 h.ids x)

/-- A frame of another entry keeps its own. -/
theorem Letter.frame_setBody {l : Letter} {id x : Nat} (body : EntryBody) (other : x ≠ id) {b a : List Entry}
    (split_ : l.edit = b ++ ⟨x, .speech none⟩ :: a)
    (extents : (setBody id body l.edit).map Entry.extent = l.edit.map Entry.extent) {bound : Nat}
    (early : l.sealB + spanOf b + 1 ≤ bound) :
    ∃ b' a', setBody id body l.edit = b' ++ ⟨x, .speech none⟩ :: a' ∧ l.sealB + spanOf b' + 1 ≤ bound := by
  have divides : setBody id body l.edit = setBody id body b ++ ⟨x, .speech none⟩ :: setBody id body a := by
    rw [split_, setBody_append]
    congr 1
    exact congrArg (· :: setBody id body a) (if_neg other)
  have front : (setBody id body b).map Entry.extent = b.map Entry.extent := by
    rw [divides, split_, List.map_append, List.map_append] at extents
    exact (List.append_inj extents (by simp [Machine.setBody])).1
  exact ⟨_, _, divides, by rw [spanOf_extents front]; exact early⟩

/-! ### Splits and truncation (R58, R64) -/

theorem Letter.splitRun_split {l : Letter} {p spare : Nat} {edit : List Entry}
    (split_ : l.splitRun p spare = some edit) :
    ∃ before id kind x y after, l.edit = before ++ ⟨id, .run kind (x + y)⟩ :: after ∧ 1 ≤ x ∧ 1 ≤ y ∧
      edit = before ++ ⟨id, .run kind x⟩ :: ⟨spare, .run kind y⟩ :: after := by
  unfold Letter.splitRun at split_
  dsimp only at split_
  split at split_
  · rename_i id kind n post rest
    split at split_
    · rename_i inside
      cases split_
      have covers := cutAt_holds rest
      rw [Entry.count_run] at covers
      have start : (cutAt p l.sealB l.edit).start = (l.cut p).start := rfl
      refine ⟨(l.cut p).before, id, kind, p - (l.cut p).start, (l.cut p).start + n - p, post, ?_, by omega, by omega, rfl⟩
      rw [show p - (l.cut p).start + ((l.cut p).start + n - p) = n by omega, ← rest, l.cut_append]
    · exact nomatch split_
  · exact nomatch split_

theorem Letter.Spans.split {l : Letter} (h : l.Spans) {p spare : Nat} {edit : List Entry} {marks : List Mark}
    (split_ : l.splitRun p spare = some edit) (fresh : ∀ e ∈ l.edit, e.id ≠ spare) (bounded : ∀ m ∈ marks, m.pos ≤ l.length) :
    ({ l with edit := edit, marks := marks } : Letter).Spans := by
  have counts := Letter.idCount_splitRun split_
  obtain ⟨before, id, kind, x, y, after, old, x_covers, y_covers, rfl⟩ := Letter.splitRun_split split_
  have whole := h.length
  refine ⟨fun e he => ?_, ?_, h.low, h.high, (nodup_ids_iff _).2 fun n => ?_, bounded⟩
  · have covers := h.covers
    rw [old] at covers
    rcases List.mem_append.1 he with first | he
    · exact covers e (List.mem_append_left _ first)
    · rcases List.mem_cons.1 he with rfl | he
      · exact x_covers
      · rcases List.mem_cons.1 he with rfl | last
        · exact y_covers
        · exact covers e (List.mem_append_right _ (List.mem_cons_of_mem _ last))
  · rw [old] at whole
    simp only [spanOf_append, spanOf_cons, Entry.count_run] at whole ⊢
    omega
  · show idCount n (before ++ ⟨id, .run kind x⟩ :: ⟨spare, .run kind y⟩ :: after) ≤ 1
    rw [counts n]
    have once := (nodup_ids_iff _).1 h.ids n
    split
    · rename_i same
      have absent : idCount n l.edit = 0 := by
        by_contra some_old
        obtain ⟨e, he, id⟩ := (exists_id_iff n l.edit).2 (Nat.pos_of_ne_zero some_old)
        exact fresh e he (id.trans same.symm)
      omega
    · exact once

/-- A split leaves frames before the write point. -/
theorem Channel.InStep.split {ch : Channel} {l : Letter} (step : ch.InStep l) {p spare : Nat}
    {edit : List Entry} {marks : List Mark} (split_ : l.splitRun p spare = some edit) (growing : ch.det.growing = none) :
    ch.InStep { l with edit := edit, marks := marks } := by
  obtain ⟨before, id, kind, x, y, after, old, -, -, rfl⟩ := Letter.splitRun_split split_
  refine ⟨fun _ => growing, fun b e a _ some_growing => ?_, step.review, step.busy, fun w hw => ?_, step.own⟩
  · rw [growing] at some_growing
    exact nomatch some_growing
  · obtain ⟨b, a, there, early⟩ := step.frames w hw
    rcases List.append_eq_append_iff.1 (old.symm.trans there) with ⟨mid, front, back⟩ | ⟨mid, front, back⟩
    · cases mid with
      | nil => exact nomatch (List.cons.inj back).1
      | cons f mid =>
        obtain ⟨rfl, later⟩ := List.cons.inj back
        refine ⟨before ++ ⟨id, .run kind x⟩ :: ⟨spare, .run kind y⟩ :: mid, a, ?_, ?_⟩
        · show before ++ _ :: _ :: after = _
          rw [later, List.append_assoc]
          rfl
        · rw [front] at early
          simp only [spanOf_append, spanOf_cons, Entry.count_run] at early ⊢
          show l.sealB + _ + 1 ≤ l.cursor
          omega
    · cases mid with
      | nil => exact nomatch (List.cons.inj back).1
      | cons f mid =>
        obtain ⟨rfl, later⟩ := List.cons.inj back
        refine ⟨b, mid ++ ⟨id, .run kind x⟩ :: ⟨spare, .run kind y⟩ :: after, ?_, early⟩
        show before ++ _ :: _ :: after = _
        rw [front, List.append_assoc, List.cons_append]

theorem Letter.Spans.cutOffAtCursor {l : Letter} (h : l.Spans) : l.cutOffAtCursor.Spans := by
  have low := cutAt_start_le (w := l.cursor) l.edit h.low
  have start := cutAt_start l.cursor l.sealB l.edit
  have whole := l.cut_append l.cursor
  have covers : ∀ e ∈ l.truncated l.cursor, 1 ≤ e.count := by
    have front : ∀ e ∈ (l.cut l.cursor).before, 1 ≤ e.count := fun e he =>
      h.covers e (whole ▸ List.mem_append_left _ he)
    unfold Letter.truncated
    dsimp only
    split
    · exact fun e he => (List.mem_append.1 he).elim (front e) runPiece_covers
    · exact front
  have span : l.cursor = l.sealB + spanOf (l.truncated l.cursor) := by
    unfold Letter.truncated
    dsimp only
    cases rest : (l.cut l.cursor).rest with
    | nil =>
      rw [rest, List.append_nil] at whole
      have length := h.length
      have high := h.high
      rw [← whole] at length
      change (l.cut l.cursor).start ≤ _ at low
      change (l.cut l.cursor).start = l.sealB + spanOf (l.cut l.cursor).before at start
      dsimp only
      omega
    | cons e post =>
      have inside := cutAt_holds rest
      change (l.cut l.cursor).start ≤ _ at low
      change (l.cut l.cursor).start = l.sealB + spanOf (l.cut l.cursor).before at start
      change l.cursor < (l.cut l.cursor).start + e.count at inside
      obtain ⟨id, body⟩ := e
      cases body with
      | run kind n =>
        dsimp only
        rw [spanOf_append, spanOf_runPiece]
        omega
      | speech held =>
        rw [Entry.count_speech] at inside
        dsimp only
        omega
  exact ⟨covers, span, h.low, Nat.le_refl _,
    (nodup_ids_iff _).2 fun x => (l.idCount_truncated x l.cursor).trans ((nodup_ids_iff _).1 h.ids x),
    fun m hm => of_decide_eq_true (List.mem_filter.1 hm).2⟩

end Sys2Proof.Machine

/-! PROOFS. Letters, channels and the job in order at every move (`Works.Ordered`): what `Works.LettersInOrder` and
`Works.SlotsAddUp` rest on, in the form that PLAY and the moves of a transcription channel keep too. -/

namespace Sys2Proof.Machine

/-- The ENCODE job in service is that of a frame IN SERVICE of its channel, for the channel's letter (R81, R102). -/
def Works.JobInOrder (k : Works) : Prop :=
  ∀ c i entry width base, k.job = some (.encode c i entry width base) →
    (k.chan c).letter = some i ∧ ∃ w ∈ (k.chan c).capture, w.inService = true ∧ w.entry = entry

/-- Every letter and channel in its order, record by record. -/
structure Works.Ordered (k : Works) : Prop where
  spans : ∀ i, (k.letter i).Spans
  fresh : ∀ i, ∀ e ∈ (k.letter i).edit, e.id < k.nextEntry
  apart : ∀ i j, i ≠ j → ∀ e ∈ (k.letter i).edit, ∀ f ∈ (k.letter j).edit, e.id ≠ f.id
  inStep : ∀ c i, (k.chan c).letter = some i → (k.chan c).InStep (k.letter i)
  idle : ∀ c, (k.chan c).letter = none → (k.chan c).capture = []
  shut : ∀ c, (k.chan c).state = .closed → (k.chan c).det.growing = none
  feeds : ∀ c, k.FeedNumbered (k.chan c)
  job : k.JobInOrder

/-! ### What a change keeps of the order -/

theorem Works.FeedNumbered.of_ids {k k' : Works} {ch ch' : Channel} (h : k.FeedNumbered ch)
    (ids : (ch'.feed.map FeedRec.id).Sublist (ch.feed.map FeedRec.id)) (next : k.nextEntry ≤ k'.nextEntry) :
    k'.FeedNumbered ch' := by
  obtain ⟨once, fresh⟩ := h
  refine ⟨once.sublist ids, fun r hr => ?_⟩
  obtain ⟨old, there, same⟩ := List.mem_map.1 (ids.subset (List.mem_map_of_mem hr))
  rw [← same]
  exact (fresh old there).trans_le next

/-- A change of channel `c` and letter `i`. -/
theorem Works.Ordered.of_sets {k k' : Works} (h : k.Ordered) (c i : Nat) (chan : ∀ d, d ≠ c → k'.chan d = k.chan d)
    (letter : ∀ j, j ≠ i → k'.letter j = k.letter j) (next : k.nextEntry ≤ k'.nextEntry) (spans : (k'.letter i).Spans)
    (ids : ∀ e ∈ (k'.letter i).edit, (∃ f ∈ (k.letter i).edit, f.id = e.id) ∨ (k.nextEntry ≤ e.id ∧ e.id < k'.nextEntry))
    (here : ∀ j, (k'.chan c).letter = some j → (k'.chan c).InStep (k'.letter j))
    (others : ∀ d, d ≠ c → (k.chan d).letter = some i → (k.chan d).InStep (k'.letter i))
    (idle : (k'.chan c).letter = none → (k'.chan c).capture = [])
    (shut : (k'.chan c).state = .closed → (k'.chan c).det.growing = none) (feeds : k'.FeedNumbered (k'.chan c))
    (job : k'.JobInOrder) : k'.Ordered where
  spans j := by
    by_cases same : j = i
    · rw [same]
      exact spans
    · rw [letter j same]
      exact h.spans j
  fresh j e he := by
    by_cases same : j = i
    · rw [same] at he
      rcases ids e he with ⟨f, hf, id⟩ | ⟨-, new⟩
      · rw [← id]
        exact (h.fresh i f hf).trans_le next
      · exact new
    · rw [letter j same] at he
      exact (h.fresh j e he).trans_le next
  apart := by
    have one {j : Nat} (other : j ≠ i) {e f : Entry} (he : e ∈ (k'.letter i).edit) (hf : f ∈ (k.letter j).edit) :
        e.id ≠ f.id := by
      rcases ids e he with ⟨g, hg, id⟩ | ⟨new, -⟩
      · rw [← id]
        exact h.apart i j (Ne.symm other) g hg f hf
      · have old := h.fresh j f hf
        omega
    intro a b differ e he f hf
    by_cases at_a : a = i
    · have other : b ≠ i := fun at_b => differ (at_a.trans at_b.symm)
      rw [at_a] at he
      rw [letter b other] at hf
      exact one other he hf
    · rw [letter a at_a] at he
      by_cases at_b : b = i
      · rw [at_b] at hf
        exact (one at_a hf he).symm
      · rw [letter b at_b] at hf
        exact h.apart a b differ e he f hf
  inStep d j names := by
    by_cases same : d = c
    · rw [same] at names ⊢
      exact here j names
    · rw [chan d same] at names ⊢
      by_cases at_i : j = i
      · rw [at_i] at names ⊢
        exact others d same names
      · rw [letter j at_i]
        exact h.inStep d j names
  idle d := by
    by_cases same : d = c
    · rw [same]
      exact idle
    · rw [chan d same]
      exact h.idle d
  shut d := by
    by_cases same : d = c
    · rw [same]
      exact shut
    · rw [chan d same]
      exact h.shut d
  feeds d := by
    by_cases same : d = c
    · rw [same]
      exact feeds
    · rw [chan d same]
      exact (h.feeds d).of_ids (List.Sublist.refl _) next
  job := job

/-- The job stays in order where its channel keeps letter and frames. -/
theorem Works.Ordered.job_kept {k k' : Works} (h : k.Ordered) {c : Nat} (job : k'.job = k.job)
    (chan : ∀ d, d ≠ c → k'.chan d = k.chan d)
    (kept : ∀ i w, (k.chan c).letter = some i → w ∈ (k.chan c).capture →
      (k'.chan c).letter = some i ∧ w ∈ (k'.chan c).capture) : k'.JobInOrder := by
  intro d i entry width base serves
  obtain ⟨letter, w, there, in_service⟩ := h.job d i entry width base (job ▸ serves)
  by_cases same : d = c
  · rw [same] at letter there ⊢
    obtain ⟨letter', there'⟩ := kept i w letter there
    exact ⟨letter', w, there', in_service⟩
  · rw [chan d same]
    exact ⟨letter, w, there, in_service⟩

/-- A change of the job alone. -/
theorem Works.Ordered.of_job {k k' : Works} (h : k.Ordered) (chans : k'.chans = k.chans) (letters : k'.letters = k.letters)
    (next : k'.nextEntry = k.nextEntry) (job : k'.JobInOrder) : k'.Ordered := by
  have chan := Works.chan_of_chans_eq chans
  have letter := Works.letter_of_letters_eq letters
  refine h.of_sets 0 0 (fun d _ => chan d) (fun j _ => letter j) next.ge (by rw [letter]; exact h.spans 0)
    (fun e he => .inl ⟨e, letter 0 ▸ he, rfl⟩) (fun j names => ?_) (fun d _ names => ?_) (by rw [chan]; exact h.idle 0)
    (by rw [chan]; exact h.shut 0) (by rw [chan]; exact (h.feeds 0).of_ids (List.Sublist.refl _) next.ge) job
  · rw [chan] at names ⊢
    rw [letter]
    exact h.inStep 0 j names
  · rw [letter]
    exact h.inStep d 0 names

theorem Works.Ordered.of_same {k k' : Works} (h : k.Ordered) (chans : k'.chans = k.chans) (letters : k'.letters = k.letters)
    (next : k'.nextEntry = k.nextEntry) (job : k'.job = k.job) : k'.Ordered :=
  h.of_job chans letters next (h.job_kept (c := 0) job (fun d _ => Works.chan_of_chans_eq chans d)
    fun i w names there => by rw [Works.chan_of_chans_eq chans]; exact ⟨names, there⟩)

/-- A change of one channel. -/
theorem Works.Ordered.set_chan {k k' : Works} (h : k.Ordered) (c : Nat) (chan : ∀ d, d ≠ c → k'.chan d = k.chan d)
    (letters : k'.letters = k.letters) (next : k'.nextEntry = k.nextEntry)
    (here : ∀ j, (k'.chan c).letter = some j → (k'.chan c).InStep (k.letter j))
    (idle : (k'.chan c).letter = none → (k'.chan c).capture = [])
    (shut : (k'.chan c).state = .closed → (k'.chan c).det.growing = none)
    (feeds : ((k'.chan c).feed.map FeedRec.id).Sublist ((k.chan c).feed.map FeedRec.id)) (job : k'.JobInOrder) :
    k'.Ordered := by
  have letter := Works.letter_of_letters_eq letters
  refine h.of_sets c 0 chan (fun j _ => letter j) next.ge (by rw [letter]; exact h.spans 0)
    (fun e he => .inl ⟨e, letter 0 ▸ he, rfl⟩) (fun j names => by rw [letter]; exact here j names)
    (fun d _ names => by rw [letter]; exact h.inStep d 0 names) idle shut ((h.feeds c).of_ids feeds next.ge) job

/-- A change of one letter. -/
theorem Works.Ordered.set_letter {k k' : Works} (h : k.Ordered) (i : Nat) (letter : ∀ j, j ≠ i → k'.letter j = k.letter j)
    (chans : k'.chans = k.chans) (next : k.nextEntry ≤ k'.nextEntry) (job : k'.job = k.job) (spans : (k'.letter i).Spans)
    (ids : ∀ e ∈ (k'.letter i).edit, (∃ f ∈ (k.letter i).edit, f.id = e.id) ∨ (k.nextEntry ≤ e.id ∧ e.id < k'.nextEntry))
    (step : ∀ d, (k.chan d).letter = some i → (k.chan d).InStep (k'.letter i)) : k'.Ordered := by
  have chan := Works.chan_of_chans_eq chans
  refine h.of_sets 0 i (fun d _ => chan d) letter next spans ids (fun j names => ?_) (fun d _ names => step d names)
    (by rw [chan]; exact h.idle 0) (by rw [chan]; exact h.shut 0)
    (by rw [chan]; exact (h.feeds 0).of_ids (List.Sublist.refl _) next)
    (h.job_kept (c := 0) job (fun d _ => chan d) fun i w names there => by rw [chan]; exact ⟨names, there⟩)
  rw [chan] at names ⊢
  by_cases same : j = i
  · rw [same] at names ⊢
    exact step 0 names
  · rw [letter j same]
    exact h.inStep 0 j names

theorem Works.letter_modLetter_cases (k : Works) (i : Nat) (f : Letter → Letter) :
    (k.modLetter i f).letter i = f (k.letter i) ∨ (k.modLetter i f).letter i = k.letter i := by
  by_cases inside : i < k.letters.length
  · exact .inl (k.letter_modLetter_self i f inside)
  · exact .inr (Works.letter_of_letters_eq (set_beyond _ inside) i)

/-- A change of one letter that brings in no number. -/
theorem Works.Ordered.modLetter {k : Works} (h : k.Ordered) {i : Nat} {f : Letter → Letter} (spans : (f (k.letter i)).Spans)
    (ids : ∀ e ∈ (f (k.letter i)).edit, ∃ g ∈ (k.letter i).edit, g.id = e.id)
    (step : ∀ d, (k.chan d).letter = some i → (k.chan d).InStep (f (k.letter i))) : (k.modLetter i f).Ordered := by
  rcases k.letter_modLetter_cases i f with same | same
  · refine h.set_letter i (fun j hj => k.letter_modLetter_ne i j f hj) rfl (Nat.le_refl _) rfl ?_ ?_ ?_ <;> rw [same]
    · exact spans
    · exact fun e he => .inl (ids e he)
    · exact step
  · refine h.set_letter i (fun j hj => k.letter_modLetter_ne i j f hj) rfl (Nat.le_refl _) rfl ?_ ?_ ?_ <;> rw [same]
    · exact h.spans i
    · exact fun e he => .inl ⟨e, he, rfl⟩
    · exact fun d => h.inStep d i

/-- A change of one letter that keeps its entries and places. -/
theorem Works.Ordered.modLetter_fields {k : Works} (h : k.Ordered) {i : Nat} {f : Letter → Letter}
    (edit : (f (k.letter i)).edit = (k.letter i).edit) (cursor : (f (k.letter i)).cursor = (k.letter i).cursor)
    (sealB : (f (k.letter i)).sealB = (k.letter i).sealB) (length : (f (k.letter i)).length = (k.letter i).length)
    (marks : ∀ m ∈ (f (k.letter i)).marks, m ∈ (k.letter i).marks ∨ m.pos ≤ (k.letter i).length) :
    (k.modLetter i f).Ordered := by
  have spans := h.spans i
  refine h.modLetter ⟨by rw [edit]; exact spans.covers, by rw [length, sealB, edit]; exact spans.length,
    by rw [sealB, cursor]; exact spans.low, by rw [length, cursor]; exact spans.high, by rw [edit]; exact spans.ids,
    fun m hm => ?_⟩ (fun e he => ⟨e, edit ▸ he, rfl⟩) fun d names => (h.inStep d i names).of_fields edit sealB cursor length
  rw [length]
  exact (marks m hm).elim (spans.marks m) id

/-- A change of one channel that keeps letter, frames and numbers. -/
theorem Works.Ordered.modChan {k : Works} (h : k.Ordered) {c : Nat} {f : Channel → Channel}
    (letter : (f (k.chan c)).letter = (k.chan c).letter) (capture : (f (k.chan c)).capture = (k.chan c).capture)
    (step : ∀ j, (k.chan c).letter = some j → (f (k.chan c)).InStep (k.letter j))
    (shut : (f (k.chan c)).state = .closed → (f (k.chan c)).det.growing = none)
    (feeds : ((f (k.chan c)).feed.map FeedRec.id).Sublist ((k.chan c).feed.map FeedRec.id)) : (k.modChan c f).Ordered := by
  have others (d : Nat) (hd : d ≠ c) : (k.modChan c f).chan d = k.chan d := k.chan_modChan_ne c d f hd
  rcases k.chan_modChan_cases c f with same | same
  · refine h.set_chan c others rfl rfl ?_ ?_ ?_ ?_ (h.job_kept rfl others ?_) <;> rw [same]
    · rw [letter]
      exact step
    · rw [letter, capture]
      exact h.idle c
    · exact shut
    · exact feeds
    · rw [letter, capture]
      exact fun i w names there => ⟨names, there⟩
  · refine h.set_chan c others rfl rfl ?_ ?_ ?_ ?_ (h.job_kept rfl others ?_) <;> rw [same]
    · exact h.inStep c
    · exact h.idle c
    · exact h.shut c
    · exact fun i w names there => ⟨names, there⟩

theorem Channel.Calm.shut {ch ch' : Channel} (calm : ch.Calm ch') (h : ch.state = .closed → ch.det.growing = none) :
    ch'.state = .closed → ch'.det.growing = none := fun closed => by
  rcases calm.growing with ended | ⟨same, -⟩
  · exact ended
  · rw [same]
    exact h (calm.closed.1 closed)

theorem Works.Ordered.calm {k : Works} (acc : k.Acc) (h : k.Ordered) {c : Nat} {f : Channel → Channel}
    (calm : (k.chan c).Calm (f (k.chan c))) : (k.modChan c f).Ordered :=
  h.modChan calm.letter calm.capture (fun j names => (h.inStep c j names).calm (acc.dictates names) calm)
    (calm.shut (h.shut c)) (by rw [calm.feedIds])

theorem Works.Ordered.raiseWith {k : Works} (h : k.Ordered) (kind : EventKind) (c : Nat) (d : BitVec 32) (l : BitVec 16) :
    (k.raiseWith kind c d l).Ordered := by
  rw [Works.raiseWith_eq]
  exact h.of_same rfl rfl rfl rfl

theorem Works.Ordered.retireAtRun {k : Works} (h : k.Ordered) (slot : Nat) : (k.retireAtRun slot).Ordered := by
  unfold Works.retireAtRun
  refine Works.Ordered.raiseWith ?_ _ _ _ _
  unfold Works.retire
  split <;> exact h.of_same rfl rfl rfl rfl

/-- What a move keeps: the accounting, and with it the order. -/
def Works.KeepsOrder (k k' : Works) : Prop := k.Acc → k'.Acc ∧ (k.Ordered → k'.Ordered)

theorem Works.KeepsOrder.refl (k : Works) : k.KeepsOrder k := fun acc => ⟨acc, id⟩

theorem Works.KeepsOrder.trans {a b c : Works} (h : a.KeepsOrder b) (h' : b.KeepsOrder c) : a.KeepsOrder c := fun acc =>
  have first := h acc
  have second := h' first.1
  ⟨second.1, second.2 ∘ first.2⟩

theorem Works.keepsOrder_applySealing (k : Works) (i : Nat) : k.KeepsOrder (k.applySealing i) := by
  refine Works.applySealing_keeps Works.KeepsOrder.refl Works.KeepsOrder.trans
    (fun _ _ _ _ _ acc => ⟨acc.raiseWith _ _ _ _, fun h => h.raiseWith _ _ _ _⟩)
    (fun _ _ _ calm acc => ⟨acc.calm calm, fun h => h.calm acc calm⟩) (fun k i c window attached _ acc => ⟨?_, fun h => ?_⟩) k i
  · exact acc.modLetter (.of_attached attached rfl rfl rfl)
      (Letter.entryCount_sealEntries ((k.letter i).sealable_append window))
  · refine h.modLetter ((h.spans i).sealEntries window) (fun e he => ⟨e, ?_, rfl⟩)
      fun d names => (h.inStep d i names).sealEntries window
    rw [← (k.letter i).sealable_append window]
    exact List.mem_append_right _ he

/-! ### Placements and growth (R40 to R44, R81) -/

theorem Works.Ordered.placed_ids {k : Works} (i : Nat) (mode : RecMode) (body : EntryBody) :
    ∀ e ∈ (planEntry mode (k.letter i) (k.letter i).cursor ⟨k.nextEntry, body⟩ (k.nextEntry + 1)).edit,
      (∃ f ∈ (k.letter i).edit, f.id = e.id) ∨ (k.nextEntry ≤ e.id ∧ e.id < k.nextEntry + 2) := by
  intro e he
  have counts := idCount_planEntry e.id mode (k.letter i) (k.letter i).cursor ⟨k.nextEntry, body⟩ (k.nextEntry + 1)
  have there := (exists_id_iff e.id _).1 ⟨e, he, rfl⟩
  by_cases old : 0 < idCount e.id (k.letter i).edit
  · exact .inl ((exists_id_iff _ _).2 old)
  · right
    dsimp only at counts
    split at counts <;> split at counts <;> omega

/-- A placement, with what its channel becomes. -/
theorem Works.Ordered.place {k k' : Works} (acc : k.Acc) (h : k.Ordered) {c i id : Nat} {mode : RecMode} {body : EntryBody}
    {grew : Bool} {f : Channel → Channel} (one : body.count = 1) (letter : (k.chan c).letter = some i)
    (recording : (k.chan c).state = .recording) (placed : k.placeEntry i mode body = .placed k' id grew)
    (state : (f (k.chan c)).state = (k.chan c).state) (keeps : (f (k.chan c)).letter = (k.chan c).letter)
    (feed : (f (k.chan c)).feed = (k.chan c).feed) (frames : ∀ w ∈ (k.chan c).capture, w ∈ (f (k.chan c)).capture)
    (new : ∀ w ∈ (f (k.chan c)).capture, w ∈ (k.chan c).capture ∨ (w.entry = id ∧ body = .speech none))
    (own : (∀ w ∈ (k.chan c).capture, w.entry < id) → ((f (k.chan c)).capture.map WaitFrame.entry).Nodup)
    (growing : (f (k.chan c)).det.growing = none ∨ (f (k.chan c)).det.growing = some id) : (k'.modChan c f).Ordered := by
  obtain ⟨-, -, rfl, -, rfl⟩ := Works.placeEntry_placed placed
  have ids := Works.Ordered.placed_ids (k := k) i mode body
  have spans : ((k.letter i).withPlan mode (planEntry mode (k.letter i) (k.letter i).cursor ⟨k.nextEntry, body⟩
      (k.nextEntry + 1))).Spans := by
    refine (h.spans i).withPlan one (fun e he => ?_) (by dsimp only; omega)
    have old := h.fresh i e he
    dsimp only
    omega
  have at_cursor {before after : List Entry} {e : Entry} := Letter.withPlan_at (before := before) (after := after) (e := e)
    (new := ⟨k.nextEntry, body⟩) (h.spans i) one spans
  obtain ⟨front, back, put, starts⟩ := Letter.withPlan_split (mode := mode) (new := ⟨k.nextEntry, body⟩)
    (spare := k.nextEntry + 1) (h.spans i)
  have kept {before after : List Entry} {e : Entry} := Letter.withPlan_frame (before := before) (after := after) (f := e)
    (mode := mode) (new := ⟨k.nextEntry, body⟩) (spare := k.nextEntry + 1) (l := k.letter i)
  generalize planEntry mode (k.letter i) (k.letter i).cursor ⟨k.nextEntry, body⟩ (k.nextEntry + 1) = p at *
  obtain ⟨chans, letters, job, -, -, next⟩ := (k.modLetter i fun l => l.withPlan mode p).afterPlan_fields p
  have step := h.inStep c i letter
  have exists_ := (acc.letter_of_chan letter).1
  have inside := Works.lt_of_chan_letter letter
  have read_chan : (((k.modLetter i fun l => l.withPlan mode p).afterPlan p).modChan c f).chan c = f (k.chan c) := by
    rw [Works.chan_modChan_self _ _ _ (by rw [chans]; exact inside), Works.chan_of_chans_eq chans, Works.chan_modLetter]
  have read_letter : (((k.modLetter i fun l => l.withPlan mode p).afterPlan p).modChan c f).letter i =
      (k.letter i).withPlan mode p := by
    rw [Works.letter_modChan, Works.letter_of_letters_eq letters, Works.letter_modLetter_self _ _ _ exists_]
  have others (d : Nat) (hd : d ≠ c) :
      (((k.modLetter i fun l => l.withPlan mode p).afterPlan p).modChan c f).chan d = k.chan d := by
    rw [Works.chan_modChan_ne _ _ _ _ hd, Works.chan_of_chans_eq chans, Works.chan_modLetter]
  refine h.of_sets c i others (fun j hj => ?_) (by simp only [Works.modChan, next]; exact Nat.le_add_right _ 2) ?_ ?_
    (fun j names => ?_) (fun d hd names => absurd names (acc.alone letter hd)) ?_ ?_ ?_ (h.job_kept job others ?_)
  · rw [Works.letter_modChan, Works.letter_of_letters_eq letters, Works.letter_modLetter_ne _ _ _ _ hj]
  · rw [read_letter]
    exact spans
  · rw [read_letter]
    show ∀ e ∈ p.edit, _ ∨ (_ ∧ e.id < ((k.modLetter i fun l => l.withPlan mode p).afterPlan p).nextEntry)
    rw [next]
    exact ids
  · rw [read_chan] at names ⊢
    obtain rfl : i = j := Option.some.inj ((letter.symm.trans keeps.symm).trans names)
    rw [read_letter]
    refine ⟨fun other => absurd (state.trans recording) other, fun before e after split_ is_growing => ?_, fun reviewing => ?_,
      fun _ => .inl (state.trans recording), fun w hw => ?_, own fun w hw => ?_⟩
    · rcases growing with ended | grows
      · rw [ended] at is_growing
        exact nomatch is_growing
      · exact (at_cursor split_ (Option.some.inj (is_growing.symm.trans grows))).1
    · rw [state, recording] at reviewing
      exact nomatch reviewing
    · rcases new w hw with old | ⟨at_new, pending⟩
      · obtain ⟨before, after, split_, early⟩ := step.frames w old
        obtain ⟨after', still⟩ := kept split_ early
        exact ⟨before, after', still, Nat.le_succ_of_le early⟩
      · rw [pending, ← at_new] at put
        exact ⟨front, back, put, Nat.succ_le_succ starts.le⟩
    · obtain ⟨before, after, split_, -⟩ := step.frames w hw
      exact h.fresh i ⟨w.entry, .speech none⟩ (by rw [split_]; simp)
  · rw [read_chan, keeps, letter]
    exact (nomatch ·)
  · rw [read_chan, state, recording]
    exact (nomatch ·)
  · rw [read_chan]
    exact (h.feeds c).of_ids (by rw [feed]) (by simp only [Works.modChan, next]; exact Nat.le_add_right _ 2)
  · rw [read_chan, keeps]
    exact fun j w names there => ⟨names, frames w there⟩

theorem Works.keepsOrder_spanMoves : Works.SpanMoves Works.KeepsOrder where
  refl := .refl
  trans := .trans
  other same acc := ⟨Works.acc_spanMoves.other same acc, fun h => h.of_same same.chans same.letters same.nextEntry same.job⟩
  raise _ _ _ _ _ acc := ⟨acc.raiseWith _ _ _ _, fun h => h.raiseWith _ _ _ _⟩
  channels k chans calm acc := by
    have each (c : Nat) : (k.chan c).Calm (({ k with chans := chans } : Works).chan c) := forall₂_getD calm c (.refl _)
    refine ⟨Works.acc_spanMoves.channels k calm acc, fun h => ⟨h.spans, h.fresh, h.apart, fun c i names => ?_, fun c => ?_,
      fun c => (each c).shut (h.shut c), fun c => ?_, fun c i entry width base serves => ?_⟩⟩
    · rw [(each c).letter] at names
      exact (h.inStep c i names).calm (acc.dictates names) (each c)
    · rw [(each c).letter, (each c).capture]
      exact h.idle c
    · exact (h.feeds c).of_ids (by rw [(each c).feedIds]) (Nat.le_refl _)
    · rw [(each c).letter, (each c).capture]
      exact h.job c i entry width base serves
  letter k i g calm acc := ⟨Works.acc_spanMoves.letter k i g calm acc, fun h =>
    h.modLetter_fields calm.edit calm.cursor calm.sealB calm.length fun m hm => .inl (calm.marks.subset hm)⟩
  sealing := Works.keepsOrder_applySealing
  placeRun letter recording placed acc := ⟨Works.acc_spanMoves.placeRun letter recording placed acc, fun h =>
    h.place acc rfl letter recording placed rfl rfl rfl (fun _ => id) (fun _ => .inl)
      (fun _ => (h.inStep _ _ letter).own) (.inr rfl)⟩
  placeSpeech f letter recording silent placed acc := by
    refine ⟨Works.acc_spanMoves.placeSpeech f letter recording silent placed acc, fun h =>
      h.place acc rfl letter recording placed rfl rfl rfl (fun _ => List.mem_append_left _) (fun w hw => ?_) (fun fresh => ?_)
        (.inl silent)⟩
    · rcases List.mem_append.1 hw with old | new
      · exact .inl old
      · rw [List.mem_singleton.1 new]
        exact .inr ⟨rfl, rfl⟩
    · have own := (h.inStep _ _ letter).own
      simp only [Channel.keepFrame, List.map_append, List.map_cons, List.map_nil]
      refine List.nodup_append.2 ⟨own, List.nodup_singleton _, fun x hx y hy => ?_⟩
      obtain ⟨w, hw, rfl⟩ := List.mem_map.1 hx
      rw [List.mem_singleton.1 hy]
      exact (fresh w hw).ne
  grow {k c i id n kind} mode letter recording growing run no_mark room acc := by
    refine ⟨Works.acc_spanMoves.grow mode letter recording growing run no_mark room acc, fun h => ?_⟩
    have step := h.inStep c i letter
    have spans := (h.spans i).withGrowth step mode growing run
    have grown := step.withGrowth (h.spans i) recording mode growing run
    have counts (x : Nat) := idCount_planGrowth x mode (k.letter i) (k.letter i).cursor id
    rw [Works.giveBack_eq_given]
    refine Works.Ordered.of_same (k := k.modLetter i fun l =>
      l.withGrowth mode (planGrowth mode (k.letter i) (k.letter i).cursor id)) ?_ rfl rfl rfl rfl
    refine h.modLetter spans (fun e he => ?_) fun d names => ?_
    · exact (exists_id_iff _ _).2 (((exists_id_iff _ _).1 ⟨e, he, rfl⟩).trans_le (counts e.id))
    · by_cases same : d = c
      · rw [same]
        exact grown
      · exact absurd names (acc.alone letter same)

end Sys2Proof.Machine

/-! PROOFS. The order of letters, channels and the job across the other moves (`Works.keepsOrder_moves`). -/

namespace Sys2Proof.Machine

/-! ### Channels at rest -/

/-- A READY channel does nothing with its letter. -/
theorem Channel.InStep.ready {ch : Channel} {l : Letter} (h : ch.InStep l) (ready : ch.state = .ready) :
    ch.det.growing = none ∧ ch.capture = [] :=
  ⟨h.silent (by rw [ready]; exact (nomatch ·)),
    h.idle (by rw [ready]; exact (nomatch ·)) (by rw [ready]; exact (nomatch ·))⟩

theorem Channel.InStep.of_ready {ch : Channel} {l : Letter} (h : ch.InStep l) (ready : ch.state = .ready) (l' : Letter) :
    ch.InStep l' := by
  obtain ⟨growing, capture⟩ := h.ready ready
  exact .of_rest l' growing (by rw [ready]; exact (nomatch ·)) capture

/-- A change of a channel that its letter does not see. -/
theorem Channel.InStep.of_channel {ch ch' : Channel} {l : Letter} (h : ch.InStep l) (state : ch'.state = ch.state)
    (growing : ch'.det.growing = ch.det.growing) (play : ch'.playPoint = ch.playPoint) (stop : ch'.stopPoint = ch.stopPoint)
    (capture : ch'.capture = ch.capture) : ch'.InStep l where
  silent := by rw [state, growing]; exact h.silent
  grows := by rw [growing]; exact h.grows
  review := by rw [state, play, stop]; exact h.review
  busy := by rw [state, capture]; exact h.busy
  frames := by rw [capture]; exact h.frames
  own := by rw [capture]; exact h.own

/-- A change of the letter of a READY channel. -/
theorem Works.Ordered.modLetter_ready {k : Works} (acc : k.Acc) (h : k.Ordered) {c i : Nat} {f : Letter → Letter}
    (letter : (k.chan c).letter = some i) (ready : (k.chan c).state = .ready) (spans : (f (k.letter i)).Spans)
    (ids : ∀ e ∈ (f (k.letter i)).edit, ∃ g ∈ (k.letter i).edit, g.id = e.id) : (k.modLetter i f).Ordered := by
  refine h.modLetter spans ids fun d names => ?_
  by_cases same : d = c
  · rw [same]
    exact (h.inStep c i letter).of_ready ready _
  · exact absurd names (acc.alone letter same)

/-- A change of a letter that no channel names. -/
theorem Works.Ordered.modLetter_unnamed {k : Works} (h : k.Ordered) {i : Nat} {f : Letter → Letter}
    (unnamed : ∀ d, (k.chan d).letter ≠ some i) (spans : (f (k.letter i)).Spans)
    (ids : ∀ e ∈ (f (k.letter i)).edit, ∃ g ∈ (k.letter i).edit, g.id = e.id) : (k.modLetter i f).Ordered :=
  h.modLetter spans ids fun d names => absurd names (unnamed d)

/-- A CLOSED channel has neither growing run nor frames. -/
theorem Works.Ordered.closed {k : Works} (acc : k.Acc) (h : k.Ordered) {c : Nat} (closed : (k.chan c).state = .closed) :
    (k.chan c).det.growing = none ∧ (k.chan c).capture = [] :=
  ⟨h.shut c closed, h.idle c (acc.closed closed).2.1⟩

/-- A channel without frames serves no job. -/
theorem Works.Ordered.job_idle {k k' : Works} (h : k.Ordered) {c : Nat} (job : k'.job = k.job)
    (chan : ∀ d, d ≠ c → k'.chan d = k.chan d) (idle : (k.chan c).capture = []) : k'.JobInOrder :=
  h.job_kept job chan fun i w _ there => by
    rw [idle] at there
    exact nomatch there

/-- A channel that becomes another at rest: it joins a letter, leaves it, or is loaded. -/
theorem Works.Ordered.modChan_rest {k : Works} (h : k.Ordered) {c : Nat} {f : Channel → Channel}
    (growing : (f (k.chan c)).det.growing = none) (review : (f (k.chan c)).state ≠ .reviewing)
    (capture : (f (k.chan c)).capture = []) (before : (k.chan c).capture = [])
    (feeds : ((f (k.chan c)).feed.map FeedRec.id).Sublist ((k.chan c).feed.map FeedRec.id)) : (k.modChan c f).Ordered := by
  have others (d : Nat) (hd : d ≠ c) : (k.modChan c f).chan d = k.chan d := k.chan_modChan_ne c d f hd
  rcases k.chan_modChan_cases c f with same | same
  · refine h.set_chan c others rfl rfl ?_ ?_ ?_ ?_ (h.job_idle rfl others before) <;> rw [same]
    · exact fun j _ => .of_rest _ growing review capture
    · exact fun _ => capture
    · exact fun _ => growing
    · exact feeds
  · refine h.set_chan c others rfl rfl ?_ ?_ ?_ ?_ (h.job_idle rfl others before) <;> rw [same]
    · exact h.inStep c
    · exact h.idle c
    · exact h.shut c

/-- A READY channel releases its letter. -/
theorem Works.Ordered.release {k : Works} (acc : k.Acc) (h : k.Ordered) {c i : Nat} (letter : (k.chan c).letter = some i)
    (ready : (k.chan c).state = .ready) :
    (k.modChan c Channel.release).Ordered ∧ ∀ d, ((k.modChan c Channel.release).chan d).letter ≠ some i := by
  obtain ⟨growing, capture⟩ := (h.inStep c i letter).ready ready
  refine ⟨h.modChan_rest growing (nomatch ·) capture capture (List.Sublist.refl _), fun d => ?_⟩
  by_cases same : d = c
  · rw [same, Works.chan_modChan_self _ _ _ (Works.lt_of_chan_letter letter)]
    exact (nomatch ·)
  · rw [Works.chan_modChan_ne _ _ _ _ same]
    exact acc.alone letter same

theorem Letter.ended_spans (l : Letter) (h : l.Spans) : l.ended.Spans :=
  ⟨fun _ he => (nomatch he), rfl, Nat.le_refl _, Nat.le_refl _, List.nodup_nil,
    fun m hm => h.marks m (List.mem_of_mem_filter hm)⟩

/-! ### Reviews (R72, R87, R89) -/

/-- A review's stop point lies beyond the cursor and inside the letter (R72). -/
theorem Letter.stopPoint_bounds {l : Letter} (h : l.Spans) (o : StopOption) (beyond : (l.stopPoint o).1 ≠ l.cursor) :
    l.cursor < (l.stopPoint o).1 ∧ (l.stopPoint o).1 ≤ l.length := by
  have high := h.high
  cases o with
  | atEnd =>
    change l.length ≠ l.cursor at beyond
    show l.cursor < l.length ∧ l.length ≤ l.length
    omega
  | atPosition p =>
    obtain ⟨low, top⟩ := clampNat_bounds high p
    change (clampNat l.cursor l.length p).1 ≠ l.cursor at beyond
    exact ⟨Nat.lt_of_le_of_ne low (Ne.symm beyond), top⟩
  | nextMark =>
    unfold Letter.stopPoint at beyond ⊢
    dsimp only at beyond ⊢
    cases found : l.marks.find? fun m => decide (l.cursor < m.pos) with
    | none =>
      rw [found] at beyond
      exact ⟨Nat.lt_of_le_of_ne high (Ne.symm beyond), Nat.le_refl _⟩
    | some m =>
      exact ⟨of_decide_eq_true (List.find?_some found :), h.marks m (List.mem_of_find?_eq_some found)⟩

/-- A review goes on to its next position. -/
theorem Channel.InStep.reviewOn {ch ch' : Channel} {l : Letter} {p : Nat} (h : ch.InStep l) (dictates : ch.kind = .dictation)
    (reviewing : ch.state = .reviewing) (play : ch.playPoint = some p) (beyond : ch.stopPoint ≠ some (p + 1))
    (next : ch'.playPoint = some (p + 1)) (calm : ch.Calm { ch' with playPoint := ch.playPoint }) : ch'.InStep l := by
  have step := h.calm dictates calm
  refine ⟨step.silent, step.grows, fun still => ?_, step.busy, step.frames, step.own⟩
  obtain ⟨p', stop, play', at_stop, low, inside, high⟩ := h.review reviewing
  obtain rfl : p = p' := Option.some.inj (play.symm.trans play')
  obtain ⟨-, points⟩ := calm.review still
  have stop_same := (points.resolve_left fun no => no dictates).2
  refine ⟨p + 1, stop, next, stop_same.trans at_stop, Nat.le_succ_of_le low, ?_, high⟩
  refine Nat.lt_of_le_of_ne inside fun same => beyond ?_
  rw [at_stop, ← same]

/-! ### Frames of the coder (R81, R101 to R106) -/

theorem serveOldest_spec (ws : List WaitFrame) :
    (serveOldest ws).map WaitFrame.entry = ws.map WaitFrame.entry ∧
      ∀ w, ws.find? (fun v => !v.inService) = some w → ∃ v ∈ serveOldest ws, v.inService = true ∧ v.entry = w.entry := by
  induction ws with
  | nil => exact ⟨rfl, fun w h => nomatch h⟩
  | cons x rest ih =>
    obtain ⟨entries, served⟩ := ih
    unfold serveOldest
    split
    · rename_i in_service
      refine ⟨by rw [List.map_cons, entries, List.map_cons], fun w h => ?_⟩
      rw [List.find?_cons_of_neg (by simp [in_service])] at h
      obtain ⟨v, there, same⟩ := served w h
      exact ⟨v, List.mem_cons_of_mem _ there, same⟩
    · rename_i waits
      refine ⟨rfl, fun w h => ?_⟩
      rw [List.find?_cons_of_pos (by simp [waits])] at h
      cases h
      exact ⟨_, List.mem_cons_self .., rfl, rfl⟩

/-- A change of the frames of a channel that keeps the entries that they wait for, or drops some. -/
theorem Channel.InStep.of_frames {ch ch' : Channel} {l : Letter} (h : ch.InStep l) (state : ch'.state = ch.state)
    (growing : ch'.det.growing = ch.det.growing) (play : ch'.playPoint = ch.playPoint) (stop : ch'.stopPoint = ch.stopPoint)
    (entries : (ch'.capture.map WaitFrame.entry).Sublist (ch.capture.map WaitFrame.entry)) : ch'.InStep l where
  silent := by rw [state, growing]; exact h.silent
  grows := by rw [growing]; exact h.grows
  review := by rw [state, play, stop]; exact h.review
  busy some_frame := by
    rw [state]
    refine h.busy fun empty => some_frame ?_
    rw [empty] at entries
    exact List.map_eq_nil_iff.1 (List.sublist_nil.1 entries)
  frames w hw := by
    obtain ⟨v, there, same⟩ := List.mem_map.1 (entries.subset (List.mem_map_of_mem hw))
    rw [← same]
    exact h.frames v there
  own := h.own.sublist entries

/-- The oldest frame that waits comes into service, and the job is its own. -/
theorem Works.Ordered.serve {k k' : Works} (h : k.Ordered) {c : Nat} {w : WaitFrame} {base : Sample}
    (waiting : (k.chan c).capture.find? (fun v => !v.inService) = some w)
    (chans : k'.chans = k.chans.set c { k.chan c with capture := serveOldest (k.chan c).capture })
    (letters : k'.letters = k.letters) (next : k'.nextEntry = k.nextEntry)
    (job : k'.job = some (.encode c ((k.chan c).letter.getD 0) w.entry w.width base)) : k'.Ordered := by
  obtain ⟨entries, served⟩ := serveOldest_spec (k.chan c).capture
  have some_frame : (k.chan c).capture ≠ [] := fun empty => by
    rw [empty] at waiting
    exact nomatch waiting
  have inside : c < k.chans.length := by
    by_contra beyond
    have default : k.chan c = Channel.initial := by simp [Works.chan, Nat.le_of_not_lt beyond]
    exact some_frame (by rw [default]; rfl)
  obtain ⟨i, letter⟩ : ∃ i, (k.chan c).letter = some i := by
    cases names : (k.chan c).letter with
    | none => exact absurd (h.idle c names) some_frame
    | some i => exact ⟨i, rfl⟩
  have read := Works.chan_of_set chans inside
  refine h.set_chan c (fun d hd => Works.chan_of_set_ne chans hd) letters next (fun j names => ?_) (fun none_letter => ?_)
    (by rw [read]; exact h.shut c) (by rw [read]) fun d j entry width base' serves => ?_
  · rw [read] at names ⊢
    exact (h.inStep c j names).of_frames rfl rfl rfl rfl (by rw [entries])
  · rw [read, letter] at none_letter
    exact nomatch none_letter
  · rw [job] at serves
    cases serves
    rw [read, letter]
    exact ⟨rfl, served w waiting⟩

theorem Works.Ordered.grantEncode {k : Works} (h : k.Ordered) (c : Nat) : (k.grantEncode c).Ordered := by
  unfold Works.grantEncode
  dsimp only
  split
  · exact h
  · rename_i w waiting
    exact h.serve waiting rfl rfl rfl rfl

theorem Works.Ordered.coded {k : Works} (acc : k.Acc) (h : k.Ordered) {c i entry : Nat} {width : Width} {base : Sample}
    (carry : Sample) (job : k.job = some (.encode c i entry width base)) :
    ({ (k.codeEntry c i entry).1 with job := none }.modChan c fun ch =>
      { ch with carry := carry, capture := ch.capture.filter fun w => !w.inService }).Ordered := by
  obtain ⟨letter, w, there, in_service, rfl⟩ := h.job c i entry width base job
  obtain ⟨body, one, letters, chans, -, -, next⟩ := k.codeEntry_fields c i w.entry
  have step := h.inStep c i letter
  obtain ⟨before, after, split_, -⟩ := step.frames w there
  obtain ⟨extents, spans⟩ := (h.spans i).setBody split_ (body := body) one
  have exists_ := (acc.letter_of_chan letter).1
  have read_letter : (k.codeEntry c i w.entry).1.letter i =
      { k.letter i with edit := setBody w.entry body (k.letter i).edit } := Works.letter_of_set letters exists_
  generalize (k.codeEntry c i w.entry).1 = k1 at *
  have inside : c < k1.chans.length := by rw [chans]; exact Works.lt_of_chan_letter letter
  have read : ({ k1 with job := none }.modChan c fun ch =>
      { ch with carry := carry, capture := ch.capture.filter fun w => !w.inService }).chan c =
        { k.chan c with carry := carry, capture := (k.chan c).capture.filter fun w => !w.inService } := by
    rw [Works.chan_modChan_self { k1 with job := none } c _ inside]
    have same : ({ k1 with job := none } : Works).chan c = k.chan c := Works.chan_of_chans_eq chans c
    rw [same]
  refine h.of_sets c i (fun d hd => ?_) (fun j hj => Works.letter_of_set_ne letters hj) next.ge ?_ (fun e he => ?_)
    (fun j names => ?_) (fun d hd names => absurd names (acc.alone letter hd)) (fun names => ?_) ?_ ?_ fun _ _ _ _ _ none_job =>
      nomatch none_job
  · rw [Works.chan_modChan_ne _ _ _ _ hd]
    exact Works.chan_of_chans_eq chans d
  · show (k1.letter i).Spans
    rw [read_letter]
    exact spans
  · change e ∈ (k1.letter i).edit at he
    rw [read_letter] at he
    refine .inl ((exists_id_iff _ _).2 ?_)
    rw [← idCount_extents extents]
    exact (exists_id_iff _ _).1 ⟨e, he, rfl⟩
  · rw [read] at names ⊢
    obtain rfl : i = j := Option.some.inj (letter.symm.trans names)
    show Channel.InStep _ (k1.letter i)
    rw [read_letter]
    refine Channel.InStep.of_extents (l := k.letter i) (step.of_frames (ch' := { k.chan c with
      carry := carry
      capture := (k.chan c).capture.filter fun w => !w.inService }) rfl rfl rfl rfl
        (List.filter_sublist.map _)) extents rfl rfl rfl fun v hv => ?_
    obtain ⟨old, waits⟩ := List.mem_filter.1 hv
    obtain ⟨b, a, at_v, early⟩ := step.frames v old
    refine Letter.frame_setBody body (fun same => ?_) at_v extents early
    have twice := List.inj_on_of_nodup_map step.own old there same
    rw [twice, in_service] at waits
    exact nomatch waits
  · rw [read, letter] at names
    exact nomatch names
  · rw [read]
    exact h.shut c
  · rw [read]
    exact (h.feeds c).of_ids (List.Sublist.refl _) next.ge

/-! ### A frame that is lost (R109) -/

theorem Works.Ordered.loseBody {k : Works} (h : k.Ordered) {i entry slot : Nat}
    (held : k.jobSlot 0 (.letter i) entry = some slot) :
    (k.modLetter i fun l => { l with edit := setBody entry (.run .lost 1) l.edit }).Ordered := by
  unfold Works.jobSlot at held
  dsimp only at held
  split at held
  · rename_i e found
    obtain ⟨same, before, after, split_, -⟩ := List.find?_eq_some_iff_append.1 found
    obtain rfl : e.id = entry := of_decide_eq_true same
    obtain ⟨id, body⟩ := e
    cases body with
    | run kind n => exact nomatch held
    | speech found_slot =>
      obtain ⟨extents, spans⟩ := (h.spans i).setBody split_ (body := .run .lost 1) rfl
      refine h.modLetter spans (fun f hf => ?_) fun d names => ?_
      · refine (exists_id_iff _ _).2 ?_
        rw [← idCount_extents extents]
        exact (exists_id_iff _ _).1 ⟨f, hf, rfl⟩
      · have step := h.inStep d i names
        refine step.of_extents extents rfl rfl rfl fun w hw => ?_
        obtain ⟨b, a, at_w, early⟩ := step.frames w hw
        refine Letter.frame_setBody _ (fun twice => ?_) at_w extents early
        have ids := (h.spans i).ids
        rw [split_] at ids
        obtain ⟨-, same_entry, -⟩ := split_unique ids (split_.symm.trans at_w) twice
        rw [Entry.mk.injEq, EntryBody.speech.injEq] at same_entry
        rw [← same_entry.2] at held
        exact nomatch held
  · exact nomatch held

/-! ### Marks (R64) -/

theorem mem_insertMark_iff (m f : Mark) (ms : List Mark) : f ∈ insertMark m ms ↔ f = m ∨ f ∈ ms := by
  induction ms with
  | nil => exact List.mem_cons
  | cons g rest ih =>
    rw [insertMark]
    split
    · rw [List.mem_cons, ih, List.mem_cons, or_left_comm]
    · rw [List.mem_cons]

/-- A mark captured stands inside the letter where the capture point does. -/
theorem Letter.captureMark_bounded {l : Letter} {kind : MarkKind} {label : BitVec 16} {p bound : Nat}
    (marks : ∀ m ∈ l.marks, m.pos ≤ bound) (point : p ≤ bound) : ∀ m ∈ l.captureMark kind label p, m.pos ≤ bound := by
  intro m hm
  unfold Letter.captureMark at hm
  split at hm
  · obtain ⟨old, there, rfl⟩ := List.mem_map.1 hm
    have low := marks old there
    split <;> exact low
  · rcases (mem_insertMark_iff _ _ _).1 hm with rfl | old
    · exact point
    · exact marks m old

theorem Works.Ordered.capturePoint_le {k : Works} (h : k.Ordered) {c i : Nat} (letter : (k.chan c).letter = some i) :
    k.capturePoint c i ≤ (k.letter i).length := by
  have high := (h.spans i).high
  unfold Works.capturePoint
  split
  · rename_i reviewing
    obtain ⟨p, stop, play, -, -, inside, top⟩ := (h.inStep c i letter).review reviewing
    rw [play, Option.getD_some]
    omega
  · exact high

/-- The growing run has ended after a capture (R27, R64). -/
theorem Channel.InStep.endGrowth {ch : Channel} {l : Letter} (h : ch.InStep l) :
    ch.endGrowth.det.growing = none ∧ ch.Calm ch.endGrowth := by
  unfold Channel.endGrowth
  split
  · exact ⟨rfl, ⟨rfl, rfl, Iff.rfl, rfl, rfl, rfl, .inl rfl, fun h => ⟨h, .inr ⟨rfl, rfl⟩⟩, fun _ => .inl⟩⟩
  · rename_i other
    exact ⟨h.silent fun recording => other recording, .refl ch⟩

/-- A capture that splits a run (R64, step 3). -/
theorem Works.Ordered.splitRun {k k' : Works} (acc : k.Acc) (h : k.Ordered) {c i p : Nat} {edit : List Entry}
    {marks : List Mark} (letter : (k.chan c).letter = some i) (split_ : (k.letter i).splitRun p k.nextEntry = some edit)
    (chans : k'.chans = (k.modChan c Channel.endGrowth).chans)
    (letters : k'.letters = k.letters.set i { k.letter i with edit := edit, marks := marks })
    (next : k'.nextEntry = k.nextEntry + 1) (job : k'.job = k.job) (bounded : ∀ m ∈ marks, m.pos ≤ (k.letter i).length) :
    k'.Ordered := by
  obtain ⟨silent, calm⟩ := (h.inStep c i letter).endGrowth
  have counts := Letter.idCount_splitRun split_
  have read := k.chan_modChan_self c Channel.endGrowth (Works.lt_of_chan_letter letter)
  have read_letter := Works.letter_of_set letters (acc.letter_of_chan letter).1
  refine (h.calm acc calm).set_letter i (fun j hj => Works.letter_of_set_ne letters hj) chans (by rw [next]; exact Nat.le_succ _)
    job ?_ (fun e he => ?_) fun d names => ?_
  · rw [read_letter]
    exact (h.spans i).split split_ (fun e he => (h.fresh i e he).ne) bounded
  · rw [read_letter] at he
    have there := (exists_id_iff e.id edit).1 ⟨e, he, rfl⟩
    have count := counts e.id
    by_cases old : 0 < idCount e.id (k.letter i).edit
    · exact .inl ((exists_id_iff _ _).2 old)
    · right
      rw [next]
      show k.nextEntry ≤ e.id ∧ e.id < k.nextEntry + 1
      split at count <;> omega
  · rw [read_letter]
    by_cases same : d = c
    · rw [same, read] at names ⊢
      exact ((h.inStep c i letter).calm (acc.dictates letter) calm).split split_ silent
    · rw [Works.chan_modChan_ne _ _ _ _ same] at names
      exact absurd names (acc.alone letter same)

/-! ### Takes -/

theorem Works.keepsOrder_takeMoves (i : Nat) : Works.TakeMoves Works.KeepsOrder i where
  refl := .refl
  trans := .trans
  other := Works.keepsOrder_spanMoves.other
  sealedMark front acc := ⟨(Works.acc_takeMoves i).sealedMark front acc,
    fun h => h.modLetter_fields rfl rfl rfl rfl fun _ => .inl⟩
  run {k _ _ _ rest} front body acc := ⟨(Works.acc_takeMoves i).run front body acc, fun h =>
    (h.modLetter_fields (f := fun l => { l with sealedList := rest }) rfl rfl rfl rfl fun _ => .inl).of_same rfl rfl rfl rfl⟩
  passed {k _ _ rest} front body acc := ⟨(Works.acc_takeMoves i).passed front body acc, fun h =>
    (h.modLetter_fields (f := fun l => { l with sealedList := rest }) rfl rfl rfl rfl fun _ => .inl).of_same rfl rfl rfl rfl⟩
  failed {k _ _ rest} front body acc := by
    refine ⟨(Works.acc_takeMoves i).failed front body acc, fun h => Works.Ordered.retireAtRun ?_ _⟩
    exact (h.modLetter_fields (i := i) (f := fun l => { l with sealedList := rest }) rfl rfl rfl rfl
      fun _ => .inl).of_same rfl rfl rfl rfl
  mark empty ending marks acc := ⟨(Works.acc_takeMoves i).mark empty ending marks acc, fun h =>
    h.modLetter_fields rfl rfl rfl rfl fun m hm => .inl (marks ▸ List.mem_cons_of_mem _ hm)⟩
  freed {k} at_end acc := by
    refine ⟨(Works.acc_takeMoves i).freed at_end acc, fun h => ?_⟩
    have taken := (acc.letter i).2.2
    obtain ⟨-, sealing⟩ := at_end.resolve_left (by rw [taken]; exact Bool.false_ne_true)
    exact h.modLetter_unnamed (acc.unnamed (by rw [sealing]; exact (nomatch ·))) Letter.freeRecord_spans
      fun _ he => nomatch he

theorem queued_ids (id : Nat) (pool : List Nat) (rs : List FedRecord) :
    (queued id pool rs).map FeedRec.id = List.range' id rs.length := by
  induction rs generalizing id pool with
  | nil => rfl
  | cons r rest ih =>
    unfold queued
    split <;> rw [List.map_cons, ih, List.length_cons, List.range'_succ]

theorem Works.Ordered.freeTail {k : Works} (h : k.Ordered) (c : Nat) : (k.freeTail c).Ordered := by
  unfold Works.freeTail
  dsimp only
  split
  · exact h
  · rename_i p _
    rw [Works.giveBack_eq_given]
    refine Works.Ordered.of_same (k := k.modChan c fun ch =>
      { ch with feed := ch.feed.dropWhile fun r => r.behind (p - (k.chan c).settings.backspace) }) ?_ rfl rfl rfl rfl
    exact h.modChan rfl rfl (fun j names => (h.inStep c j names).of_channel rfl rfl rfl rfl rfl) (h.shut c)
      ((List.dropWhile_sublist _).map _)

theorem Works.Ordered.feed {k : Works} (acc : k.Acc) (h : k.Ordered) {c : Nat} {rs : List FedRecord}
    (plays : (k.chan c).kind ≠ .dictation) :
    ((k.modChan c fun ch => ch.feedWith rs (queued k.nextEntry k.freePool rs)).takeForFeed rs.length
      (fedFrames rs).length).Ordered := by
  obtain ⟨chans, letters, job, -, -, next⟩ :=
    (k.modChan c fun ch => ch.feedWith rs (queued k.nextEntry k.freePool rs)).takeForFeed_fields rs.length
      (fedFrames rs).length
  obtain ⟨-, state, letter, queue, capture, det⟩ := (k.chan c).feedWith_fields rs (queued k.nextEntry k.freePool rs)
  have no_letter := acc.no_letter plays
  have no_frames := h.idle c no_letter
  generalize (k.modChan c fun ch => ch.feedWith rs (queued k.nextEntry k.freePool rs)).takeForFeed rs.length
    (fedFrames rs).length = k' at *
  change k'.nextEntry = k.nextEntry + rs.length at next
  have others (d : Nat) (hd : d ≠ c) : k'.chan d = k.chan d := by
    rw [Works.chan_of_chans_eq chans, Works.chan_modChan_ne _ _ _ _ hd]
  have letter_same := Works.letter_of_letters_eq letters
  have read : k'.chan c = (k.chan c).feedWith rs (queued k.nextEntry k.freePool rs) ∨ k'.chan c = k.chan c := by
    rw [Works.chan_of_chans_eq chans]
    exact k.chan_modChan_cases c _
  have kept : (k'.chan c).letter = none ∧ (k'.chan c).capture = [] ∧
      ((k'.chan c).state = .closed → (k'.chan c).det.growing = none) := by
    rcases read with same | same <;> rw [same]
    · rw [letter, capture, state, det]
      exact ⟨no_letter, no_frames, h.shut c⟩
    · exact ⟨no_letter, no_frames, h.shut c⟩
  obtain ⟨letter', capture', shut'⟩ := kept
  refine h.of_sets c 0 others (fun j _ => letter_same j) (by rw [next]; exact Nat.le_add_right _ _)
    (by rw [letter_same]; exact h.spans 0) (fun e he => .inl ⟨e, letter_same 0 ▸ he, rfl⟩) (fun j names => ?_)
    (fun d _ names => by rw [letter_same]; exact h.inStep d 0 names) (fun _ => capture') shut' ?_
    (h.job_idle job others no_frames)
  · rw [letter'] at names
    exact nomatch names
  · obtain ⟨once, fresh⟩ := h.feeds c
    rcases read with same | same <;> rw [same]
    · have each : ∀ x ∈ ((k.chan c).feed ++ queued k.nextEntry k.freePool rs).map FeedRec.id, x < k.nextEntry + rs.length := by
        intro x hx
        rw [List.map_append, queued_ids] at hx
        rcases List.mem_append.1 hx with old | new
        · obtain ⟨r, hr, rfl⟩ := List.mem_map.1 old
          exact Nat.lt_add_right _ (fresh r hr)
        · exact (List.mem_range'_1.1 new).2
      rw [Works.FeedNumbered, queue, next]
      refine ⟨?_, fun r hr => each r.id (List.mem_map_of_mem hr)⟩
      rw [List.map_append, queued_ids, List.nodup_append]
      refine ⟨once, List.nodup_range', fun x hx y hy => ?_⟩
      obtain ⟨r, hr, rfl⟩ := List.mem_map.1 hx
      have low := (List.mem_range'_1.1 hy).1
      have old := fresh r hr
      omega
    · exact (h.feeds c).of_ids (List.Sublist.refl _) (by rw [next]; exact Nat.le_add_right _ _)

theorem Works.keepsOrder_moves : Works.Moves Works.KeepsOrder where
  toSpanMoves := Works.keepsOrder_spanMoves
  clearEvent k e acc := ⟨Works.acc_moves.clearEvent k e acc, fun h => h.of_same rfl rfl rfl rfl⟩
  freeTail k c acc := ⟨acc.freeTail c, fun h => h.freeTail c⟩
  reviewOn f reviewing play beyond next calm acc :=
    ⟨Works.acc_moves.reviewOn f reviewing play beyond next calm acc, fun h => h.modChan calm.letter calm.capture
      (fun j names => (h.inStep _ j names).reviewOn (acc.dictates names) reviewing play beyond next calm)
      (calm.shut (h.shut _)) (by rw [calm.feedIds])⟩
  reviewOver {k c i q} f reviewing letter point ready calm acc := by
    refine ⟨Works.acc_moves.reviewOver f reviewing letter point ready calm acc, fun h => ?_⟩
    obtain ⟨p, stop, play, -, low, inside, high⟩ := (h.inStep c i letter).review reviewing
    have at_point := point p play
    have spans := h.spans i
    have letter' : ((k.modChan c f).chan c).letter = some i ∧ ((k.modChan c f).chan c).state = .ready := by
      rw [Works.chan_modChan_self _ _ _ (Works.lt_of_chan_letter letter)]
      exact ⟨calm.letter.trans letter, ready⟩
    rw [← Works.modLetter_modChan]
    refine (h.calm acc calm).modLetter_ready (acc.calm calm) letter'.1 letter'.2 ?_ fun e he => ⟨e, he, rfl⟩
    exact ⟨spans.covers, spans.length, spans.low.trans (by show (k.letter i).cursor ≤ q; omega),
      by show q ≤ (k.letter i).length; omega, spans.ids, spans.marks⟩
  reviewStart {k c i} o ready letter beyond acc := by
    refine ⟨Works.acc_moves.reviewStart o ready letter beyond acc, fun h => ?_⟩
    obtain ⟨growing, capture⟩ := (h.inStep c i letter).ready ready
    obtain ⟨low, high⟩ := Letter.stopPoint_bounds (h.spans i) o beyond
    unfold Works.enterReview
    dsimp only
    refine h.modChan rfl rfl (fun j names => ?_) (fun closed => nomatch closed) (List.Sublist.refl _)
    obtain rfl : i = j := Option.some.inj (letter.symm.trans names)
    have rest := Channel.InStep.of_rest (ch := { k.chan c with state := .ready }) (k.letter i) growing (nomatch ·) capture
    exact ⟨fun _ => growing, rest.grows, fun _ => ⟨_, _, rfl, rfl, Nat.le_refl _, low, high⟩,
      fun some_frame => absurd capture some_frame, rest.frames, rest.own⟩
  grantEncode k c idle acc := ⟨Works.acc_moves.grantEncode k c idle acc, fun h => h.grantEncode c⟩
  decodeJob id side generation f idle names calm acc :=
    ⟨Works.acc_moves.decodeJob id side generation f idle names calm acc, fun h =>
      (h.calm acc calm).of_job rfl rfl rfl fun _ _ _ _ _ serves => nomatch serves⟩
  coded carry job served acc := ⟨Works.acc_moves.coded carry job served acc, fun h => h.coded acc carry job⟩
  dropJob k acc := ⟨Works.acc_moves.dropJob k acc, fun h => h.of_job rfl rfl rfl fun _ _ _ _ _ serves => nomatch serves⟩
  lose {k c entry slot source} held acc := by
    refine ⟨Works.acc_moves.lose held acc, fun h => Works.Ordered.retireAtRun ?_ slot⟩
    cases source with
    | letter i =>
      have body : (k.modLetter i fun l => { l with edit := setBody entry (.run .lost 1) l.edit }).Acc :=
        acc.modLetter (.setBody _ _ _) (by simp [Letter.entryCount, setBody_length])
      exact (Works.keepsOrder_applySealing _ i body).2 (h.loseBody held)
    | feedQueue =>
      refine h.modChan (f := fun ch => { ch with feed := loseRecord entry ch.feed }) rfl rfl
        (fun j names => (h.inStep c j names).of_channel rfl rfl rfl rfl rfl) (h.shut c) ?_
      have ids : (loseRecord entry (k.chan c).feed).map FeedRec.id = (k.chan c).feed.map FeedRec.id := by
        rw [loseRecord, List.map_map]
        exact List.map_congr_left fun r _ => by
          show (if r.id = entry then { r with body := .lost 1 true } else r : FeedRec).id = r.id
          split <;> rfl
      rw [ids]
  cursorTo {k c i p} ready letter bounds acc := by
    refine ⟨Works.acc_moves.cursorTo ready letter bounds acc, fun h => ?_⟩
    have spans := h.spans i
    obtain ⟨low, high⟩ := bounds (spans.low.trans spans.high)
    exact h.modLetter_ready acc letter ready ⟨spans.covers, spans.length, low, high, spans.ids, spans.marks⟩
      fun e he => ⟨e, he, rfl⟩
  openLetter {k c i} job channel closed found acc := by
    refine ⟨Works.acc_moves.openLetter job channel closed found acc, fun h => ?_⟩
    obtain ⟨-, free⟩ := Works.findFree_spec found
    obtain ⟨growing, capture⟩ := h.closed acc closed
    have opened : (Letter.opened job c).Spans := Letter.freeRecord_spans.of_fields rfl rfl rfl rfl fun _ => id
    refine Works.Ordered.modChan_rest (k := k.modLetter i fun _ => Letter.opened job c) ?_ growing (nomatch ·) capture capture
      (List.Sublist.refl _)
    exact h.modLetter_unnamed (acc.unnamed (by rw [free]; exact (nomatch ·))) opened fun _ he => nomatch he
  joined {k c i job} channel closed found detached acc := by
    refine ⟨Works.acc_moves.joined channel closed found detached acc, fun h => ?_⟩
    obtain ⟨growing, capture⟩ := h.closed acc closed
    refine Works.Ordered.modChan_rest (k := k.modLetter i fun l => { l with state := .attached, channel := some c }) ?_ growing
      (nomatch ·) capture capture (List.Sublist.refl _)
    exact h.modLetter_unnamed (acc.unnamed (by rw [detached]; exact (nomatch ·)))
      ((h.spans i).of_fields rfl rfl rfl rfl fun _ => id) fun e he => ⟨e, he, rfl⟩
  detachLetter {k c i} channel ready holds acc := by
    refine ⟨Works.acc_moves.detachLetter channel ready holds acc, fun h => ?_⟩
    obtain ⟨released, unnamed⟩ := h.release acc holds.letter ready
    exact released.modLetter_unnamed unnamed ((h.spans i).of_fields rfl rfl rfl rfl fun _ => id) fun e he => ⟨e, he, rfl⟩
  endLetter {k c i} channel ready holds acc := by
    refine ⟨Works.acc_moves.endLetter channel ready holds acc, fun h => ?_⟩
    obtain ⟨released, unnamed⟩ := h.release acc holds.letter ready
    exact released.modLetter_unnamed unnamed ((k.letter i).ended_spans (h.spans i)) fun _ he => nomatch he
  discardChannel {k c i} channel ready holds acc := by
    refine ⟨Works.acc_moves.discardChannel channel ready holds acc, fun h => ?_⟩
    obtain ⟨released, unnamed⟩ := h.release acc holds.letter ready
    unfold Works.discardLetter
    rw [Works.giveBack_eq_given]
    refine Works.Ordered.of_same (k := (k.modChan c Channel.release).modLetter i fun _ => Letter.freeRecord) ?_ rfl rfl rfl rfl
    exact released.modLetter_unnamed unnamed Letter.freeRecord_spans fun _ he => nomatch he
  discardLetter {k i job} found loose acc := by
    refine ⟨acc.discardLetter loose, fun h => ?_⟩
    unfold Works.discardLetter
    rw [Works.giveBack_eq_given]
    refine Works.Ordered.of_same (k := k.modLetter i fun _ => Letter.freeRecord) ?_ rfl rfl rfl rfl
    exact h.modLetter_unnamed (acc.unnamed loose) Letter.freeRecord_spans fun _ he => nomatch he
  truncated {k c i} ready letter acc := by
    refine ⟨Works.acc_moves.truncated ready letter acc, fun h => ?_⟩
    rw [Works.giveBack_eq_given]
    refine Works.Ordered.of_same (k := k.modLetter i Letter.cutOffAtCursor) ?_ rfl rfl rfl rfl
    refine h.modLetter_ready acc letter ready (h.spans i).cutOffAtCursor fun e he => ?_
    exact (exists_id_iff _ _).2 (((exists_id_iff _ _).1 ⟨e, he, rfl⟩).trans_le ((k.letter i).idCount_truncated _ _))
  marked {k c i kind} label letter room whole acc := by
    refine ⟨Works.acc_moves.marked label letter room whole acc, fun h => ?_⟩
    have point := h.capturePoint_le letter
    have marked : (k.modLetter i fun l => l.withMark kind label (k.capturePoint c i)).Ordered :=
      h.modLetter_fields rfl rfl rfl rfl fun m hm => .inr (Letter.captureMark_bounded (h.spans i).marks point m hm)
    obtain ⟨-, calm⟩ := (h.inStep c i letter).endGrowth
    have acc' : (k.modLetter i fun l => l.withMark kind label (k.capturePoint c i)).Acc :=
      acc.modLetter (.of_fields rfl rfl rfl id id) rfl
    exact marked.calm acc' calm
  markedSplit {k c i kind edit} label letter room split_ enough acc := by
    refine ⟨Works.acc_moves.markedSplit label letter room split_ enough acc, fun h => ?_⟩
    have letters := k.letters_markedSplit c i Channel.endGrowth (fun l => l.withMark kind label (k.capturePoint c i)) edit
    exact h.splitRun acc letter split_ rfl letters rfl rfl
      (Letter.captureMark_bounded (h.spans i).marks (h.capturePoint_le letter))
  take _ found took acc := (Works.keepsOrder_takeMoves _).takeFrom (Works.lt_of_findJob found) took acc
  load {k c} channel closed acc := by
    refine ⟨Works.acc_moves.load channel closed acc, fun h => ?_⟩
    obtain ⟨growing, capture⟩ := h.closed acc closed
    exact h.modChan_rest growing (nomatch ·) capture capture (List.nil_sublist _)
  feed channel opened plays room acc := ⟨Works.acc_moves.feed channel opened plays room acc, fun h => h.feed acc plays⟩

end Sys2Proof.Machine

/-! PROOFS. Where slots go: what each change of an edit list, a sealed list or a feed queue does to the slots held, counted slot
by slot (R116, R117, R183). -/

namespace Sys2Proof.Machine

/-! ### Slots of entries -/

/-- How often a slot stands among entries. -/
def slotCount (n : Nat) (es : List Entry) : Nat := (slotsOf es).count n

@[simp] theorem slotCount_nil (n : Nat) : slotCount n [] = 0 := rfl

@[simp] theorem slotCount_append (n : Nat) (a b : List Entry) : slotCount n (a ++ b) = slotCount n a + slotCount n b := by
  rw [slotCount, slotsOf_append, List.count_append, slotCount, slotCount]

@[simp] theorem slotCount_cons (n : Nat) (e : Entry) (es : List Entry) :
    slotCount n (e :: es) = slotCount n es + e.slot.toList.count n := by
  rw [slotCount, slotsOf_cons, List.count_append, slotCount, Nat.add_comm]

@[simp] theorem slotCount_runPiece (n id : Nat) (kind : RunKind) (count : Nat) : slotCount n (runPiece id kind count) = 0 := by
  rw [slotCount, slotsOf_runPiece, List.count_nil]

theorem Entry.slot_of_run {e : Entry} {kind : RunKind} {n : Nat} (h : e.body = .run kind n) : e.slot = none := by
  rw [Entry.slot, h]

theorem Entry.slot_of_speech {e : Entry} {held : Option Nat} (h : e.body = .speech held) : e.slot = held := by
  rw [Entry.slot, h]

/-- A growth of a run touches no slot. -/
@[simp] theorem slotCount_bumpRun (n id : Nat) (es : List Entry) : slotCount n (bumpRun id es) = slotCount n es := by
  have same (e : Entry) : (match e.body with
      | .run kind m => if e.id = id then { e with body := .run kind (m + 1) } else e
      | .speech _ => e : Entry).slot = e.slot := by
    split
    · rename_i kind m run
      split
      · exact (Entry.slot_of_run run).symm
      · rfl
    · rfl
  rw [slotCount, slotsOf, bumpRun, List.filterMap_map, slotCount, slotsOf]
  exact congrArg (List.count n) (List.filterMap_congr fun e _ => same e)

theorem Letter.slotCount_cut (n : Nat) (l : Letter) (p : Nat) :
    slotCount n l.edit = slotCount n (l.cut p).before + slotCount n (l.cut p).rest := by
  rw [← slotCount_append, l.cut_append]

theorem slotCount_planInsert (n : Nat) (l : Letter) (w : Nat) (new : Entry) (spare : Nat) :
    slotCount n (planInsert l w new spare).edit + (planInsert l w new spare).freed.count n =
      slotCount n l.edit + new.slot.toList.count n := by
  have whole := l.slotCount_cut n w
  unfold planInsert
  dsimp only
  split
  · rename_i rest
    rw [rest] at whole
    simp only [slotCount_append, slotCount_cons, slotCount_nil, List.count_nil] at whole ⊢
    omega
  · rename_i e post rest
    rw [rest, slotCount_cons] at whole
    split
    · simp only [slotCount_append, slotCount_cons, List.count_nil]
      omega
    · rename_i kind m run
      rw [Entry.slot_of_run run, Option.toList_none, List.count_nil] at whole
      split <;>
        simp only [slotCount_append, slotCount_cons, slotCount_runPiece, List.count_nil, Entry.slot_of_run run,
          Option.toList_none] <;>
        omega

theorem slotCount_planOverwrite (n : Nat) (l : Letter) (w : Nat) (new : Entry) (spare : Nat) :
    slotCount n (planOverwrite l w new spare).edit + (planOverwrite l w new spare).freed.count n =
      slotCount n l.edit + new.slot.toList.count n := by
  have whole := l.slotCount_cut n w
  unfold planOverwrite
  dsimp only
  split
  · rename_i rest
    rw [rest] at whole
    simp only [slotCount_append, slotCount_cons, slotCount_nil, List.count_nil] at whole ⊢
    omega
  · rename_i e post rest
    rw [rest, slotCount_cons] at whole
    split
    · rename_i held speech
      rw [Entry.slot_of_speech speech] at whole
      simp only [slotCount_append, slotCount_cons]
      omega
    · rename_i kind m run
      rw [Entry.slot_of_run run, Option.toList_none, List.count_nil] at whole
      split <;>
        simp only [slotCount_append, slotCount_cons, slotCount_runPiece, List.count_nil] <;>
        omega

/-- A placement frees the slots that its letter gives up (R40). -/
theorem slotCount_planEntry (n : Nat) (mode : RecMode) (l : Letter) (w : Nat) (new : Entry) (spare : Nat) :
    slotCount n (planEntry mode l w new spare).edit + (planEntry mode l w new spare).freed.count n =
      slotCount n l.edit + new.slot.toList.count n := by
  cases mode with
  | insert => exact slotCount_planInsert n l w new spare
  | overwrite => exact slotCount_planOverwrite n l w new spare

/-- A growth step frees the slot of what it overwrites (R42). -/
theorem slotCount_planGrowth (n : Nat) (mode : RecMode) (l : Letter) (w id : Nat) :
    slotCount n (planGrowth mode l w id).edit + (planGrowth mode l w id).freed.count n = slotCount n l.edit := by
  cases mode with
  | insert => exact slotCount_bumpRun n id l.edit
  | overwrite =>
    have whole := l.slotCount_cut n w
    show slotCount n (growOverwrite l w id).edit + (growOverwrite l w id).freed.count n = slotCount n l.edit
    unfold growOverwrite
    dsimp only
    split
    · rename_i rest
      rw [rest] at whole
      simpa using whole.symm
    · rename_i e post rest
      rw [rest, slotCount_cons] at whole
      split
      · rename_i held speech
        rw [Entry.slot_of_speech speech] at whole
        simp only [slotCount_append, slotCount_bumpRun]
        omega
      · rename_i kind m run
        rw [Entry.slot_of_run run, Option.toList_none, List.count_nil] at whole
        simp only [slotCount_append, slotCount_bumpRun, slotCount_runPiece, List.count_nil]
        omega

/-- A split of a run touches no slot. -/
theorem Letter.slotCount_splitRun {l : Letter} {p spare : Nat} {edit : List Entry} (h : l.splitRun p spare = some edit)
    (n : Nat) : slotCount n edit = slotCount n l.edit := by
  obtain ⟨before, id, kind, x, y, after, old, -, -, rfl⟩ := Letter.splitRun_split h
  rw [old]
  simp

/-- TRUNCATE gives back the slots of what it cuts off (R58). -/
theorem Letter.slotCount_truncated (n : Nat) (l : Letter) (c : Nat) :
    slotCount n (l.truncated c) + slotCount n (l.cutAway c) = slotCount n l.edit := by
  have whole := l.slotCount_cut n c
  unfold Letter.truncated Letter.cutAway
  dsimp only
  cases rest : (l.cut c).rest with
  | nil =>
    rw [rest] at whole
    simpa using whole.symm
  | cons e post =>
    rw [rest, slotCount_cons] at whole
    have inside := cutAt_holds rest
    change c < (l.cut c).start + e.count at inside
    obtain ⟨id, body⟩ := e
    cases body with
    | run kind m =>
      rw [Entry.slot_run, Option.toList_none, List.count_nil] at whole
      dsimp only
      split <;> simp only [slotCount_append, slotCount_runPiece, slotCount_cons, Entry.slot_run, Option.toList_none,
        List.count_nil] <;> omega
    | speech held =>
      rw [Entry.count_speech] at inside
      dsimp only
      rw [if_neg (by omega), slotCount_cons]
      omega

/-- The one entry with a number takes a new body: its slot leaves, and that of the body joins. -/
theorem slotCount_setBody {es : List Entry} {e : Entry} (once : (es.map Entry.id).Nodup) (there : e ∈ es) (body : EntryBody)
    (n : Nat) : slotCount n (setBody e.id body es) + e.slot.toList.count n =
      slotCount n es + (Entry.slot ⟨e.id, body⟩).toList.count n := by
  obtain ⟨before, after, rfl⟩ := List.append_of_mem there
  rw [setBody_of_split once]
  simp only [slotCount_append, slotCount_cons]
  omega

/-! ### Slots of letters -/

theorem Letter.slots_count (n : Nat) (l : Letter) :
    l.slots.count n = slotCount n (l.sealedList.map SealedEntry.entry) + slotCount n l.edit := by
  rw [Letter.slots, List.count_append, slotCount, slotCount]

/-- Sealed or not, a letter holds its slots (R48). -/
theorem Letter.slots_sealEntries {l : Letter} {moved kept : List Entry} (whole : moved ++ kept = l.edit) (n : Nat) :
    (l.sealEntries moved kept).slots.count n = l.slots.count n := by
  rw [Letter.slots_count, Letter.slots_count, ← whole, slotCount_append]
  show slotCount n (List.map _ (l.sealedList ++ withMarks l.marks l.sealB moved)) + slotCount n kept = _
  rw [List.map_append, withMarks_entries, slotCount_append]
  omega

theorem Letter.slots_ended (l : Letter) (n : Nat) : l.ended.slots.count n = l.slots.count n := by
  rw [Letter.slots_count, Letter.slots_count]
  show slotCount n (List.map _ (l.sealedList ++ withMarks l.marks l.sealB l.edit)) + slotCount n [] = _
  rw [List.map_append, withMarks_entries, slotCount_append, slotCount_nil, Nat.add_zero]

/-- A FREE record holds no slot (R33). -/
theorem Letter.slots_free {l : Letter} (sound : l.Sound) (free : l.state = .free) : l.slots = [] := by
  obtain ⟨edit, sealed_⟩ := sound.1 free
  rw [Letter.slots, edit, sealed_]
  rfl

/-- A letter whose stream has come to its end holds no slot. -/
theorem Letter.slots_done {l : Letter} (sound : l.Sound) (empty : l.sealedList = []) (sealing : l.state = .sealing) :
    l.slots = [] := by
  rw [Letter.slots, empty, sound.2.1 sealing]
  rfl

/-- PENDING entries that settle hold no slot (R59). -/
theorem Letter.slots_restarted (l : Letter) : l.restarted.slots = l.slots := by
  have same (e : Entry) : e.settled.slot = e.slot := by
    obtain ⟨id, body⟩ := e
    cases body with
    | run kind m => rfl
    | speech held => cases held <;> rfl
  show slotsOf _ ++ slotsOf (l.edit.map Entry.settled) = slotsOf _ ++ slotsOf l.edit
  congr 1
  rw [slotsOf, slotsOf, List.filterMap_map]
  exact List.filterMap_congr fun e _ => same e

/-! ### Slots of feed queues -/

theorem feedSlotsOf_append (a b : List FeedRec) : feedSlotsOf (a ++ b) = feedSlotsOf a ++ feedSlotsOf b :=
  List.filterMap_append

theorem feedSlotsOf_cons (r : FeedRec) (rs : List FeedRec) : feedSlotsOf (r :: rs) = r.slot.toList ++ feedSlotsOf rs := by
  cases h : r.slot <;> simp [feedSlotsOf, h]

/-- Records fed take slots from the pool's head, one for each frame (R149). -/
theorem feedSlotsOf_queued (id : Nat) (pool : List Nat) (rs : List FedRecord) :
    feedSlotsOf (queued id pool rs) = pool.take (fedFrames rs).length := by
  induction rs generalizing id pool with
  | nil => rfl
  | cons r rest ih =>
    have none_held : FeedRec.slot ⟨id, r.pos, r.held⟩ = none := by cases r <;> rfl
    have frames : fedFrames (r :: rest) = r.slotBytes.toList ++ fedFrames rest := by
      unfold fedFrames
      rw [List.filterMap_cons]
      cases r.slotBytes <;> rfl
    unfold queued
    split
    · rename_i bytes slot more takes
      rw [feedSlotsOf_cons, ih, frames, takes]
      rfl
    · rename_i pool _ _ no_slot
      rw [feedSlotsOf_cons, ih, none_held, frames]
      cases takes : r.slotBytes with
      | none => rfl
      | some bytes =>
        cases pool with
        | nil => simp
        | cons slot more => exact (no_slot bytes slot more takes rfl).elim

/-- The record that is lost gives up its slot (R109). -/
theorem feedSlotsOf_lose {q : List FeedRec} {id slot : Nat} (once : (q.map FeedRec.id).Nodup) {r : FeedRec}
    (found : q.find? (fun r => decide (r.id = id)) = some r) (held : r.slot = some slot) (n : Nat) :
    (feedSlotsOf (loseRecord id q)).count n + [slot].count n = (feedSlotsOf q).count n := by
  induction q with
  | nil => exact nomatch found
  | cons x rest ih =>
    rw [List.map_cons, List.nodup_cons] at once
    have divides : loseRecord id (x :: rest) = (if x.id = id then { x with body := .lost 1 true } else x) ::
        loseRecord id rest := rfl
    rw [divides, feedSlotsOf_cons, feedSlotsOf_cons, List.count_append, List.count_append]
    by_cases here : x.id = id
    · rw [List.find?_cons_of_pos (by simpa using here)] at found
      cases found
      have absent : loseRecord id rest = rest := by
        unfold loseRecord
        conv_rhs => rw [← List.map_id rest]
        exact List.map_congr_left fun y hy => if_neg fun same =>
          once.1 (List.mem_map.2 ⟨y, hy, same.trans here.symm⟩)
      rw [if_pos here, absent, held]
      show ([] : List Nat).count n + _ + _ = _
      rw [List.count_nil, Option.toList_some]
      omega
    · rw [List.find?_cons_of_neg (by simpa using here)] at found
      have later := ih once.2 found
      rw [if_neg here]
      omega

end Sys2Proof.Machine

/-! PROOFS. Slots across the moves (`Works.keepsSlots_moves`): a slot stays in the pool or with a holder, and leaves both only to be
retired, listed or counted (R116 to R119). -/

namespace Sys2Proof.Machine

/-- Works with the same retired slots in the same state of the scan. -/
structure Works.SameTables (k k' : Works) : Prop where
  startup : k'.startup = k.startup
  factory : k'.factory = k.factory
  defects : k'.defects = k.defects
  unlisted : k'.unlisted = k.unlisted
  checked : k'.checked = k.checked
  scanBad : k'.scanBad = k.scanBad

theorem Works.SameTables.of_same {k k' : Works} (h : k.SameHoldings k') : k.SameTables k' :=
  ⟨h.startup, h.factory, h.defects, h.unlisted, h.checked, h.scanBad⟩

theorem Works.SameTables.refl (k : Works) : k.SameTables k := ⟨rfl, rfl, rfl, rfl, rfl, rfl⟩

theorem Works.SameTables.trans {a b c : Works} (h : a.SameTables b) (h' : b.SameTables c) : a.SameTables c :=
  ⟨h'.startup.trans h.startup, h'.factory.trans h.factory, h'.defects.trans h.defects, h'.unlisted.trans h.unlisted,
    h'.checked.trans h.checked, h'.scanBad.trans h.scanBad⟩

/-! ### How often a slot is free or held -/

/-- How often a slot stands in letters. -/
def Works.letterStock (k : Works) (n : Nat) : Nat := (k.letters.map fun l => l.slots.count n).sum

/-- How often a slot stands in feed queues. -/
def Works.feedStock (k : Works) (n : Nat) : Nat := (k.chans.map fun ch => (feedSlotsOf ch.feed).count n).sum

/-- How often a slot stands in the free pool, in letters and in feed queues. -/
def Works.stock (k : Works) (n : Nat) : Nat := k.freePool.count n + k.letterStock n + k.feedStock n

theorem Works.heldSlots_count (k : Works) (n : Nat) : k.heldSlots.count n = k.letterStock n + k.feedStock n := by
  rw [Works.heldSlots, List.count_append, count_flatMap, count_flatMap, Works.letterStock, Works.feedStock]

theorem Works.letterStock_of_eq {k k' : Works} (letters : k'.letters = k.letters) (n : Nat) :
    k'.letterStock n = k.letterStock n := by rw [Works.letterStock, letters, Works.letterStock]

theorem Works.feedStock_of_eq {k k' : Works} (chans : k'.chans = k.chans) (n : Nat) :
    k'.feedStock n = k.feedStock n := by rw [Works.feedStock, chans, Works.feedStock]

theorem Works.letterStock_set {k k' : Works} {i : Nat} {l : Letter} (letters : k'.letters = k.letters.set i l)
    (inside : i < k.letters.length) (n : Nat) :
    k'.letterStock n + (k.letter i).slots.count n = k.letterStock n + l.slots.count n := by
  rw [Works.letterStock, letters]
  exact sum_map_set (fun l : Letter => l.slots.count n) _ _ _ inside

theorem Works.feedStock_set {k k' : Works} {c : Nat} {ch : Channel} (chans : k'.chans = k.chans.set c ch)
    (inside : c < k.chans.length) (n : Nat) :
    k'.feedStock n + (feedSlotsOf (k.chan c).feed).count n = k.feedStock n + (feedSlotsOf ch.feed).count n := by
  rw [Works.feedStock, chans]
  exact sum_map_set (fun ch : Channel => (feedSlotsOf ch.feed).count n) _ _ _ inside

theorem Works.letterStock_set_same {k k' : Works} {i : Nat} {l : Letter} (letters : k'.letters = k.letters.set i l) {n : Nat}
    (same : l.slots.count n = (k.letter i).slots.count n) : k'.letterStock n = k.letterStock n := by
  rw [Works.letterStock, letters]
  exact sum_map_set_same (fun l : Letter => l.slots.count n) _ _ _ _ same

theorem Works.feedStock_set_same {k k' : Works} {c : Nat} {ch : Channel} (chans : k'.chans = k.chans.set c ch)
    (same : feedSlotsOf ch.feed = feedSlotsOf (k.chan c).feed) (n : Nat) : k'.feedStock n = k.feedStock n := by
  rw [Works.feedStock, chans]
  exact sum_map_set_same (fun ch : Channel => (feedSlotsOf ch.feed).count n) _ _ _ _ (congrArg (List.count n) same)

/-! ### Slots that leave only to be retired -/

/-- A change that takes slots from pool and holders only to retire them: `listed` are those that the defect table takes,
`counted` those beyond its room (R118, R119). -/
structure Works.Retires (k k' : Works) (listed counted : List Nat) : Prop where
  stock : ∀ n, k.stock n = k'.stock n + listed.count n + counted.count n
  defects : k'.defects.map Defect.slot = k.defects.map Defect.slot ++ listed
  unlisted : k'.unlisted = k.unlisted + counted.length

/-- What a move does with slots. -/
structure Works.Flows (k k' : Works) : Prop where
  startup : k'.startup = k.startup
  factory : k'.factory = k.factory
  checked : k'.checked = k.checked
  scanBad : k'.scanBad = k.scanBad
  retires : ∃ listed counted, k.Retires k' listed counted

theorem Works.Flows.trans {a b c : Works} (h : a.Flows b) (h' : b.Flows c) : a.Flows c := by
  obtain ⟨listed, counted, first⟩ := h.retires
  obtain ⟨listed', counted', second⟩ := h'.retires
  refine ⟨h'.startup.trans h.startup, h'.factory.trans h.factory, h'.checked.trans h.checked, h'.scanBad.trans h.scanBad,
    listed ++ listed', counted ++ counted', fun n => ?_, ?_, ?_⟩
  · have there := first.stock n
    have more := second.stock n
    rw [List.count_append, List.count_append]
    omega
  · rw [second.defects, first.defects, List.append_assoc]
  · rw [second.unlisted, first.unlisted, List.length_append, Nat.add_assoc]

/-- A change that retires nothing. -/
theorem Works.Flows.of_stock {k k' : Works} (tables : k.SameTables k') (stock : ∀ n, k'.stock n = k.stock n) : k.Flows k' where
  startup := tables.startup
  factory := tables.factory
  checked := tables.checked
  scanBad := tables.scanBad
  retires := ⟨[], [], fun n => by rw [stock n]; rfl, by rw [tables.defects, List.append_nil], tables.unlisted⟩

theorem Works.Flows.of_same {k k' : Works} (tables : k.SameTables k') (chans : k'.chans = k.chans)
    (letters : k'.letters = k.letters) (pool : k'.freePool = k.freePool) : k.Flows k' :=
  .of_stock tables fun n => by
    rw [Works.stock, pool, Works.letterStock_of_eq letters, Works.feedStock_of_eq chans, Works.stock]

theorem Works.Flows.refl (k : Works) : k.Flows k := .of_same (.refl k) rfl rfl rfl

/-- A change of one letter, what it gives up going to the pool. -/
theorem Works.Flows.set_letter {k k' : Works} {i : Nat} {l : Letter} (tables : k.SameTables k')
    (letters : k'.letters = k.letters.set i l) (chans : k'.chans = k.chans)
    (pool : i < k.letters.length →
      ∀ n, k'.freePool.count n + l.slots.count n = k.freePool.count n + (k.letter i).slots.count n)
    (beyond : ¬i < k.letters.length → k'.freePool = k.freePool) : k.Flows k' := by
  by_cases inside : i < k.letters.length
  · refine .of_stock tables fun n => ?_
    have sums := Works.letterStock_set letters inside n
    have counted := pool inside n
    rw [Works.stock, Works.stock, Works.feedStock_of_eq chans]
    omega
  · exact .of_same tables chans (letters.trans (set_beyond l inside)) (beyond inside)

/-- A change of one channel, what its feed queue gives up going to the pool. -/
theorem Works.Flows.set_chan {k k' : Works} {c : Nat} {ch : Channel} (tables : k.SameTables k')
    (chans : k'.chans = k.chans.set c ch) (letters : k'.letters = k.letters)
    (pool : c < k.chans.length → ∀ n, k'.freePool.count n + (feedSlotsOf ch.feed).count n =
      k.freePool.count n + (feedSlotsOf (k.chan c).feed).count n)
    (beyond : ¬c < k.chans.length → k'.freePool = k.freePool) : k.Flows k' := by
  by_cases inside : c < k.chans.length
  · refine .of_stock tables fun n => ?_
    have sums := Works.feedStock_set chans inside n
    have counted := pool inside n
    rw [Works.stock, Works.stock, Works.letterStock_of_eq letters]
    omega
  · exact .of_same tables (chans.trans (set_beyond ch inside)) letters (beyond inside)

theorem Works.Flows.modLetter {k : Works} {i : Nat} {f : Letter → Letter}
    (same : ∀ n, (f (k.letter i)).slots.count n = (k.letter i).slots.count n) : k.Flows (k.modLetter i f) :=
  .set_letter ⟨rfl, rfl, rfl, rfl, rfl, rfl⟩ rfl rfl (fun _ n => congrArg _ (same n)) fun _ => rfl

/-- A change of one letter that moves none of its entries. -/
theorem Works.Flows.modLetter_fields {k : Works} {i : Nat} {f : Letter → Letter} (edit : (f (k.letter i)).edit = (k.letter i).edit)
    (sealed_ : (f (k.letter i)).sealedList = (k.letter i).sealedList) : k.Flows (k.modLetter i f) :=
  .modLetter fun n => by rw [Letter.slots, edit, sealed_, Letter.slots]

theorem Works.Flows.modChan {k : Works} {c : Nat} {f : Channel → Channel}
    (same : feedSlotsOf (f (k.chan c)).feed = feedSlotsOf (k.chan c).feed) : k.Flows (k.modChan c f) :=
  .set_chan ⟨rfl, rfl, rfl, rfl, rfl, rfl⟩ rfl rfl (fun _ n => by rw [same]; rfl) fun _ => rfl

theorem Works.Flows.raiseWith (k : Works) (kind : EventKind) (c : Nat) (d : BitVec 32) (l : BitVec 16) :
    k.Flows (k.raiseWith kind c d l) := by
  rw [Works.raiseWith_eq]
  exact .of_same ⟨rfl, rfl, rfl, rfl, rfl, rfl⟩ rfl rfl rfl

theorem Works.SameTables.applySealing (k : Works) (i : Nat) : k.SameTables (k.applySealing i) :=
  Works.applySealing_keeps (R := Works.SameTables) (fun _ => .refl _) Works.SameTables.trans
    (fun k kind c d l => by rw [Works.raiseWith_eq]; exact ⟨rfl, rfl, rfl, rfl, rfl, rfl⟩)
    (fun _ _ _ _ => ⟨rfl, rfl, rfl, rfl, rfl, rfl⟩) (fun _ _ _ _ _ _ => ⟨rfl, rfl, rfl, rfl, rfl, rfl⟩) k i

theorem Works.Flows.applySealing (k : Works) (i : Nat) : k.Flows (k.applySealing i) :=
  Works.applySealing_keeps Works.Flows.refl Works.Flows.trans Works.Flows.raiseWith
    (fun _ _ _ calm => .modChan calm.feedSlots)
    (fun k i _ window _ _ => .modLetter fun n => Letter.slots_sealEntries ((k.letter i).sealable_append window) n) k i

/-- A slot that has left its holder is retired (R119). -/
theorem Works.Flows.retireAtRun {k k1 : Works} {slot : Nat} (tables : k.SameTables k1)
    (stock : ∀ n, k.stock n = k1.stock n + [slot].count n) : k.Flows (k1.retireAtRun slot) := by
  unfold Works.retireAtRun
  refine .trans (b := k1.retire slot .runtime) ?_ (.raiseWith _ _ _ _ _)
  unfold Works.retire
  split
  · refine ⟨tables.startup, tables.factory, tables.checked, tables.scanBad, [slot], [], stock, ?_, tables.unlisted⟩
    show (k1.defects ++ [_]).map Defect.slot = _
    rw [List.map_append, tables.defects]
    rfl
  · refine ⟨tables.startup, tables.factory, tables.checked, tables.scanBad, [], [slot], stock, ?_, ?_⟩
    · show k1.defects.map Defect.slot = _
      rw [tables.defects, List.append_nil]
    · show k1.unlisted + 1 = _
      rw [tables.unlisted]
      rfl

/-- A flow that retires nothing keeps the stock. -/
theorem Works.Flows.stock_of_tables {k k' : Works} (h : k.Flows k') (tables : k.SameTables k') (n : Nat) :
    k'.stock n = k.stock n := by
  obtain ⟨listed, counted, retires⟩ := h.retires
  have none_listed : listed = [] := by
    have both := retires.defects
    rw [tables.defects] at both
    exact List.self_eq_append_right.1 both
  have none_counted : counted = [] := by
    have both := retires.unlisted
    rw [tables.unlisted] at both
    exact List.eq_nil_of_length_eq_zero (by omega)
  have stock := retires.stock n
  rw [none_listed, none_counted, List.count_nil] at stock
  omega

/-! ### Moves of a span -/

theorem Works.SameTables.afterPlan (k : Works) (p : Plan) : k.SameTables (k.afterPlan p) := by
  unfold Works.afterPlan
  dsimp only
  split
  · rw [Works.entriesFreed_armed, Works.entriesTaken_lowered]
    split
    · exact ⟨rfl, rfl, rfl, rfl, rfl, rfl⟩
    · rw [Works.slotsFreed_armed]
      exact ⟨rfl, rfl, rfl, rfl, rfl, rfl⟩
  · rw [Works.entriesTaken_lowered]
    split
    · exact ⟨rfl, rfl, rfl, rfl, rfl, rfl⟩
    · rw [Works.slotsFreed_armed]
      exact ⟨rfl, rfl, rfl, rfl, rfl, rfl⟩

/-- A placement: the new entry holds no slot yet (R40, R81). -/
theorem Works.Flows.placeEntry {k k' : Works} {i id : Nat} {mode : RecMode} {body : EntryBody} {grew : Bool}
    (no_slot : ∀ x, Entry.slot ⟨x, body⟩ = none) (inside : i < k.letters.length)
    (placed : k.placeEntry i mode body = .placed k' id grew) : k.Flows k' := by
  obtain ⟨-, -, -, -, rfl⟩ := Works.placeEntry_placed placed
  have slots (n : Nat) := slotCount_planEntry n mode (k.letter i) (k.letter i).cursor ⟨k.nextEntry, body⟩ (k.nextEntry + 1)
  generalize planEntry mode (k.letter i) (k.letter i).cursor ⟨k.nextEntry, body⟩ (k.nextEntry + 1) = p at slots ⊢
  obtain ⟨chans, letters, -, -, pool, -⟩ := (k.modLetter i fun l => l.withPlan mode p).afterPlan_fields p
  have tables : k.SameTables ((k.modLetter i fun l => l.withPlan mode p).afterPlan p) :=
    .trans (b := k.modLetter i fun l => l.withPlan mode p) ⟨rfl, rfl, rfl, rfl, rfl, rfl⟩ (.afterPlan _ p)
  refine .set_letter tables letters chans (fun _ n => ?_) fun beyond => absurd inside beyond
  have counts := slots n
  rw [no_slot, Option.toList_none, List.count_nil] at counts
  rw [pool, List.count_append, Letter.slots_count, Letter.slots_count]
  show k.freePool.count n + _ + (slotCount n _ + slotCount n p.edit) = _
  show _ + (slotCount n ((k.letter i).sealedList.map SealedEntry.entry) + _) = _
  omega

/-- What a move keeps: the accounting, with it the order, and with that the slots. -/
def Works.KeepsSlots (k k' : Works) : Prop := k.Acc → k'.Acc ∧ (k.Ordered → k'.Ordered ∧ k.Flows k')

theorem Works.KeepsSlots.of_order {k k' : Works} (order : k.KeepsOrder k') (flows : k.Acc → k.Ordered → k.Flows k') :
    k.KeepsSlots k' := fun acc => ⟨(order acc).1, fun ordered => ⟨(order acc).2 ordered, flows acc ordered⟩⟩

theorem Works.KeepsSlots.refl (k : Works) : k.KeepsSlots k := .of_order (.refl k) fun _ _ => .refl k

theorem Works.KeepsSlots.trans {a b c : Works} (h : a.KeepsSlots b) (h' : b.KeepsSlots c) : a.KeepsSlots c := fun acc =>
  have first := h acc
  have second := h' first.1
  ⟨second.1, fun ordered =>
    have along := first.2 ordered
    have on := second.2 along.1
    ⟨on.1, along.2.trans on.2⟩⟩

theorem Works.keepsSlots_spanMoves : Works.SpanMoves Works.KeepsSlots where
  refl := .refl
  trans := .trans
  other same := .of_order (Works.keepsOrder_spanMoves.other same) fun _ _ =>
    .of_same (.of_same same) same.chans same.letters same.freePool
  raise _ _ _ _ _ := .of_order (Works.keepsOrder_spanMoves.raise _ _ _ _ _) fun _ _ => .raiseWith _ _ _ _ _
  channels k chans calm := by
    refine .of_order (Works.keepsOrder_spanMoves.channels k calm) fun _ _ => ?_
    refine .of_stock ⟨rfl, rfl, rfl, rfl, rfl, rfl⟩ fun n => ?_
    have feeds : ({ k with chans := chans } : Works).feedStock n = k.feedStock n :=
      sum_map_forall₂ (fun ch : Channel => (feedSlotsOf ch.feed).count n) calm fun _ _ calm => by rw [calm.feedSlots]
    rw [Works.stock, feeds]
    rfl
  letter k i g calm := .of_order (Works.keepsOrder_spanMoves.letter k i g calm) fun _ _ =>
    .modLetter_fields calm.edit calm.sealedList
  sealing k i := .of_order (Works.keepsOrder_applySealing k i) fun _ _ => .applySealing k i
  placeRun letter recording placed := .of_order (Works.keepsOrder_spanMoves.placeRun letter recording placed) fun acc _ =>
    (Works.Flows.placeEntry (fun _ => rfl) (acc.letter_of_chan letter).1 placed).trans (.modChan rfl)
  placeSpeech f letter recording silent placed :=
    .of_order (Works.keepsOrder_spanMoves.placeSpeech f letter recording silent placed) fun acc _ =>
      (Works.Flows.placeEntry (fun _ => rfl) (acc.letter_of_chan letter).1 placed).trans (.modChan rfl)
  grow {k c i id n kind} mode letter recording growing run no_mark room := by
    refine .of_order (Works.keepsOrder_spanMoves.grow mode letter recording growing run no_mark room) fun acc _ => ?_
    rw [Works.giveBack_eq_given]
    refine .set_letter ⟨rfl, rfl, rfl, rfl, rfl, rfl⟩ rfl rfl (fun _ m => ?_)
      fun beyond => absurd (acc.letter_of_chan letter).1 beyond
    have slots := slotCount_planGrowth m mode (k.letter i) (k.letter i).cursor id
    rw [Letter.slots_count, Letter.slots_count]
    show (k.freePool ++ _).count m + (slotCount m ((k.letter i).sealedList.map SealedEntry.entry) + slotCount m
      (planGrowth mode (k.letter i) (k.letter i).cursor id).edit) = _
    rw [List.count_append]
    omega

/-! ### Takes -/

/-- The front entry of a sealed list takes its slot with it. -/
theorem Letter.slots_taken {l l' : Letter} {e : Entry} {ms : List Mark} {rest : List SealedEntry}
    (front : l.sealedList = ⟨e, ms⟩ :: rest) (left : l'.sealedList = rest) (edit : l'.edit = l.edit) (n : Nat) :
    l.slots.count n = l'.slots.count n + e.slot.toList.count n := by
  rw [Letter.slots_count, Letter.slots_count, front, left, edit, List.map_cons, slotCount_cons]
  dsimp only
  omega

theorem Works.lt_of_front {k : Works} {i : Nat} {x : SealedEntry} {rest : List SealedEntry}
    (front : (k.letter i).sealedList = x :: rest) : i < k.letters.length := by
  by_contra beyond
  have default : k.letter i = Letter.freeRecord := by simp [Works.letter, Nat.le_of_not_lt beyond]
  rw [default] at front
  exact nomatch front

theorem Works.keepsSlots_takeMoves (i : Nat) : Works.TakeMoves Works.KeepsSlots i where
  refl := .refl
  trans := .trans
  other := Works.keepsSlots_spanMoves.other
  sealedMark {k e m ms rest} front := by
    refine .of_order ((Works.keepsOrder_takeMoves i).sealedMark front) fun _ _ => .modLetter fun n => ?_
    rw [Letter.slots_count, Letter.slots_count, front, List.map_cons, List.map_cons]
  run {k e kind m rest} front body := by
    refine .of_order ((Works.keepsOrder_takeMoves i).run front body) fun _ _ => ?_
    refine .set_letter ⟨rfl, rfl, rfl, rfl, rfl, rfl⟩ rfl rfl (fun _ n => ?_) fun beyond => rfl
    have slots := Letter.slots_taken (l' := { k.letter i with sealedList := rest }) front rfl rfl n
    rw [Entry.slot_of_run body, Option.toList_none, List.count_nil] at slots
    rw [slots]
    rfl
  passed {k e slot rest} front body := by
    refine .of_order ((Works.keepsOrder_takeMoves i).passed front body) fun _ _ => ?_
    refine .set_letter ⟨rfl, rfl, rfl, rfl, rfl, rfl⟩ rfl rfl (fun _ n => ?_)
      fun beyond => absurd (Works.lt_of_front front) beyond
    have slots := Letter.slots_taken (l' := { k.letter i with sealedList := rest }) front rfl rfl n
    rw [Entry.slot_of_speech body, Option.toList_some] at slots
    show (k.freePool ++ [slot]).count n + ({ k.letter i with sealedList := rest } : Letter).slots.count n = _
    rw [slots, List.count_append]
    omega
  failed {k e slot rest} front body := by
    refine .of_order ((Works.keepsOrder_takeMoves i).failed front body) fun _ _ => ?_
    refine .retireAtRun ⟨rfl, rfl, rfl, rfl, rfl, rfl⟩ fun n => ?_
    have slots := Letter.slots_taken (l' := { k.letter i with sealedList := rest }) front rfl rfl n
    rw [Entry.slot_of_speech body, Option.toList_some] at slots
    have sums := Works.letterStock_set (k' := (k.modLetter i fun l => { l with sealedList := rest }).returnEntry)
      (l := { k.letter i with sealedList := rest }) rfl (Works.lt_of_front front) n
    have pool : (k.modLetter i fun l => { l with sealedList := rest }).returnEntry.freePool = k.freePool := rfl
    have feeds : (k.modLetter i fun l => { l with sealedList := rest }).returnEntry.feedStock n = k.feedStock n := rfl
    rw [Works.stock, Works.stock, pool, feeds]
    omega
  mark empty ending marks := .of_order ((Works.keepsOrder_takeMoves i).mark empty ending marks) fun _ _ =>
    .modLetter_fields rfl rfl
  freed {k} at_end := by
    refine .of_order ((Works.keepsOrder_takeMoves i).freed at_end) fun acc _ => .modLetter fun n => ?_
    have sound := acc.letter i
    obtain ⟨empty, sealing⟩ := at_end.resolve_left (by rw [sound.2.2]; exact Bool.false_ne_true)
    rw [Letter.slots_done sound empty sealing]
    rfl

end Sys2Proof.Machine

/-! PROOFS. Slots across the other moves (`Works.keepsSlots_moves`). -/

namespace Sys2Proof.Machine

/-- A change of one letter and one channel that keeps what each holds. -/
theorem Works.Flows.of_sets {k k' : Works} {c i : Nat} {ch : Channel} {l : Letter} (tables : k.SameTables k')
    (chans : k'.chans = k.chans.set c ch) (letters : k'.letters = k.letters.set i l) (pool : k'.freePool = k.freePool)
    (feed : feedSlotsOf ch.feed = feedSlotsOf (k.chan c).feed) (held : ∀ n, l.slots.count n = (k.letter i).slots.count n) :
    k.Flows k' :=
  .of_stock tables fun n => by
    rw [Works.stock, pool, Works.letterStock_set_same letters (held n), Works.feedStock_set_same chans feed, Works.stock]

theorem Works.Flows.freeTail (k : Works) (c : Nat) : k.Flows (k.freeTail c) := by
  unfold Works.freeTail
  dsimp only
  split
  · exact .refl k
  · rename_i p _
    rw [Works.giveBack_eq_given]
    generalize (fun r : FeedRec => r.behind (p - (k.chan c).settings.backspace)) = behind
    refine .set_chan ⟨rfl, rfl, rfl, rfl, rfl, rfl⟩ rfl rfl (fun _ n => ?_) fun beyond => ?_
    · have whole := congrArg (fun q => (feedSlotsOf q).count n)
        (List.takeWhile_append_dropWhile (p := behind) (l := (k.chan c).feed))
      simp only [feedSlotsOf_append, List.count_append] at whole
      show (k.freePool ++ feedSlotsOf (List.takeWhile behind (k.chan c).feed)).count n +
        (feedSlotsOf (List.dropWhile behind (k.chan c).feed)).count n = _
      rw [List.count_append]
      omega
    · have default : k.chan c = Channel.initial := by simp [Works.chan, Nat.le_of_not_lt beyond]
      rw [default]
      exact List.append_nil _

/-! ### ENCODE and losses (R104, R105, R109) -/

/-- The entry of a frame takes the slot at the head of the pool, or becomes LOST when there is none. -/
theorem Works.codeEntry_pool (k : Works) (c i entry : Nat) :
    ∃ body : EntryBody, k.freePool = (Entry.slot ⟨entry, body⟩).toList ++ (k.codeEntry c i entry).1.freePool ∧
      (k.codeEntry c i entry).1.letters =
        k.letters.set i { k.letter i with edit := setBody entry body (k.letter i).edit } ∧
      (k.codeEntry c i entry).1.chans = k.chans ∧ k.SameTables (k.codeEntry c i entry).1 := by
  unfold Works.codeEntry
  split
  · rename_i slot rest pool
    refine ⟨.speech (some slot), ?_⟩
    dsimp only
    rw [Works.slotsTaken_eq]
    exact ⟨pool, rfl, rfl, ⟨rfl, rfl, rfl, rfl, rfl, rfl⟩⟩
  · rename_i empty
    refine ⟨.run .lost 1, ?_⟩
    dsimp only
    rw [Works.raiseCount, Works.raiseWith_eq]
    exact ⟨rfl, rfl, rfl, ⟨rfl, rfl, rfl, rfl, rfl, rfl⟩⟩

/-- A letter in which the one entry with a number takes a new body. -/
theorem Letter.slots_setBody {l l' : Letter} (spans : l.Spans) {e : Entry} (there : e ∈ l.edit) (body : EntryBody)
    (edit : l'.edit = setBody e.id body l.edit) (sealed_ : l'.sealedList = l.sealedList) (n : Nat) :
    l'.slots.count n + e.slot.toList.count n = l.slots.count n + (Entry.slot ⟨e.id, body⟩).toList.count n := by
  have counts := slotCount_setBody spans.ids there body n
  rw [Letter.slots_count, Letter.slots_count, edit, sealed_]
  omega

theorem Works.Flows.codeEntry {k : Works} (acc : k.Acc) (h : k.Ordered) {c i entry : Nat} {width : Width} {base : Sample}
    (job : k.job = some (.encode c i entry width base)) : k.Flows (k.codeEntry c i entry).1 := by
  obtain ⟨letter, w, frame, -, rfl⟩ := h.job c i entry width base job
  obtain ⟨before, after, split_, -⟩ := (h.inStep c i letter).frames w frame
  have there : (⟨w.entry, .speech none⟩ : Entry) ∈ (k.letter i).edit := by rw [split_]; simp
  obtain ⟨body, pool, letters, chans, tables⟩ := k.codeEntry_pool c i w.entry
  refine .set_letter tables letters chans (fun _ n => ?_) fun beyond => absurd (acc.letter_of_chan letter).1 beyond
  have slots := Letter.slots_setBody (l' := { k.letter i with edit := setBody w.entry body (k.letter i).edit }) (h.spans i)
    there body rfl rfl n
  rw [Entry.slot_speech, Option.toList_none, List.count_nil] at slots
  change _ = _ + (Entry.slot ⟨w.entry, body⟩).toList.count n at slots
  rw [pool, List.count_append]
  omega

/-- The entry or the record of a slot that is lost gives up that slot (R109). -/
theorem Works.Flows.lose {k : Works} (h : k.Ordered) {c entry slot : Nat} {source : JobSource}
    (held : k.jobSlot c source entry = some slot) : k.Flows ((k.loseEntry c source entry).retireAtRun slot) := by
  cases source with
  | letter i =>
    unfold Works.jobSlot at held
    dsimp only at held
    split at held
    · rename_i e found
      have there := List.mem_of_find?_eq_some found
      obtain rfl : e.id = entry := of_decide_eq_true (List.find?_some found :)
      have inside : i < k.letters.length := by
        by_contra beyond
        have default : k.letter i = Letter.freeRecord := by simp [Works.letter, Nat.le_of_not_lt beyond]
        rw [default] at there
        exact nomatch there
      have lost : ∀ n, k.stock n = (k.modLetter i fun l => { l with edit := setBody e.id (.run .lost 1) l.edit }).stock n +
          [slot].count n := fun n => by
        have slots := Letter.slots_setBody (l' := { k.letter i with edit := setBody e.id (.run .lost 1) (k.letter i).edit })
          (h.spans i) there (.run .lost 1) rfl rfl n
        have sums := Works.letterStock_set (k := k)
          (k' := k.modLetter i fun l => { l with edit := setBody e.id (.run .lost 1) l.edit })
          (l := { k.letter i with edit := setBody e.id (.run .lost 1) (k.letter i).edit }) rfl inside n
        have feeds : (k.modLetter i fun l => { l with edit := setBody e.id (.run .lost 1) l.edit }).feedStock n =
            k.feedStock n := rfl
        rw [held, Option.toList_some, Entry.slot_run, Option.toList_none, List.count_nil] at slots
        rw [Works.stock, Works.stock, feeds, Works.modLetter_freePool]
        omega
      have sealed_ := Works.Flows.applySealing
        (k.modLetter i fun l => { l with edit := setBody e.id (.run .lost 1) l.edit }) i
      have tables := Works.SameTables.applySealing
        (k.modLetter i fun l => { l with edit := setBody e.id (.run .lost 1) l.edit }) i
      refine .retireAtRun (k1 := Works.applySealing
        (k.modLetter i fun l => { l with edit := setBody e.id (.run .lost 1) l.edit }) i)
        (.trans (b := k.modLetter i fun l => { l with edit := setBody e.id (.run .lost 1) l.edit })
          ⟨rfl, rfl, rfl, rfl, rfl, rfl⟩ tables) fun n => ?_
      rw [sealed_.stock_of_tables tables]
      exact lost n
    · exact nomatch held
  | feedQueue =>
    unfold Works.jobSlot at held
    dsimp only at held
    split at held
    · rename_i r found
      have inside : c < k.chans.length := by
        by_contra beyond
        have default : k.chan c = Channel.initial := by simp [Works.chan, Nat.le_of_not_lt beyond]
        rw [default] at found
        exact nomatch found
      refine .retireAtRun ⟨rfl, rfl, rfl, rfl, rfl, rfl⟩ fun n => ?_
      have slots := feedSlotsOf_lose (h.feeds c).1 found held n
      have sums := Works.feedStock_set (k := k) (k' := k.loseEntry c .feedQueue entry)
        (ch := { k.chan c with feed := loseRecord entry (k.chan c).feed }) rfl inside n
      have pool : (k.loseEntry c .feedQueue entry).freePool = k.freePool := rfl
      have letters : (k.loseEntry c .feedQueue entry).letterStock n = k.letterStock n := rfl
      rw [Works.stock, Works.stock, pool, letters]
      dsimp only at sums
      omega
    · exact nomatch held

/-! ### DISCARD and FEED (R57, R149) -/

theorem Works.Flows.discardLetter (k : Works) (i : Nat) : k.Flows (k.discardLetter i) := by
  unfold Works.discardLetter
  rw [Works.giveBack_eq_given]
  have nothing (n : Nat) : Letter.freeRecord.slots.count n = 0 := rfl
  refine .set_letter ⟨rfl, rfl, rfl, rfl, rfl, rfl⟩ rfl rfl (fun _ n => ?_) fun beyond => ?_
  · show (k.freePool ++ (k.letter i).slots).count n + Letter.freeRecord.slots.count n = _
    rw [List.count_append, nothing]
    rfl
  · have default : k.letter i = Letter.freeRecord := by simp [Works.letter, Nat.le_of_not_lt beyond]
    show k.freePool ++ (k.letter i).slots = _
    rw [default]
    exact List.append_nil _

theorem Works.SameTables.takeForFeed (k : Works) (entries slots : Nat) : k.SameTables (k.takeForFeed entries slots) := by
  unfold Works.takeForFeed
  dsimp only
  rw [Works.entriesTaken_eq]
  split
  · exact ⟨rfl, rfl, rfl, rfl, rfl, rfl⟩
  · rw [Works.slotsTaken_eq]
    exact ⟨rfl, rfl, rfl, rfl, rfl, rfl⟩

theorem Works.Flows.feed (k : Works) {c : Nat} {rs : List FedRecord} (inside : c < k.chans.length) :
    k.Flows ((k.modChan c fun ch => ch.feedWith rs (queued k.nextEntry k.freePool rs)).takeForFeed rs.length
      (fedFrames rs).length) := by
  obtain ⟨chans, letters, -, -, pool, -⟩ :=
    (k.modChan c fun ch => ch.feedWith rs (queued k.nextEntry k.freePool rs)).takeForFeed_fields rs.length
      (fedFrames rs).length
  obtain ⟨-, -, -, queue, -, -⟩ := (k.chan c).feedWith_fields rs (queued k.nextEntry k.freePool rs)
  refine .set_chan (.trans (b := k.modChan c fun ch => ch.feedWith rs (queued k.nextEntry k.freePool rs))
    ⟨rfl, rfl, rfl, rfl, rfl, rfl⟩ (.takeForFeed _ _ _)) chans letters (fun _ n => ?_)
    fun beyond => absurd inside beyond
  have whole := congrArg (List.count n) (List.take_append_drop (fedFrames rs).length k.freePool)
  rw [List.count_append] at whole
  rw [pool, queue, feedSlotsOf_append, feedSlotsOf_queued, List.count_append]
  show (k.freePool.drop _).count n + _ = _
  omega

/-! ### All moves -/

theorem Works.keepsSlots_moves : Works.Moves Works.KeepsSlots where
  toSpanMoves := Works.keepsSlots_spanMoves
  clearEvent k e := .of_order (Works.keepsOrder_moves.clearEvent k e) fun _ _ =>
    .of_same ⟨rfl, rfl, rfl, rfl, rfl, rfl⟩ rfl rfl rfl
  freeTail k c := .of_order (Works.keepsOrder_moves.freeTail k c) fun _ _ => .freeTail k c
  reviewOn f reviewing play beyond next calm :=
    .of_order (Works.keepsOrder_moves.reviewOn f reviewing play beyond next calm) fun _ _ => .modChan calm.feedSlots
  reviewOver f reviewing letter point ready calm :=
    .of_order (Works.keepsOrder_moves.reviewOver f reviewing letter point ready calm) fun _ _ =>
      .of_sets ⟨rfl, rfl, rfl, rfl, rfl, rfl⟩ rfl rfl rfl calm.feedSlots fun _ => rfl
  reviewStart o ready letter beyond := .of_order (Works.keepsOrder_moves.reviewStart o ready letter beyond) fun _ _ =>
    .set_chan ⟨rfl, rfl, rfl, rfl, rfl, rfl⟩ rfl rfl (fun _ _ => rfl) fun _ => rfl
  grantEncode k c idle := by
    refine .of_order (Works.keepsOrder_moves.grantEncode k c idle) fun _ _ => ?_
    unfold Works.grantEncode
    dsimp only
    split
    · exact .refl k
    · exact .set_chan ⟨rfl, rfl, rfl, rfl, rfl, rfl⟩ rfl rfl (fun _ _ => rfl) fun _ => rfl
  decodeJob id side generation f idle names calm :=
    .of_order (Works.keepsOrder_moves.decodeJob id side generation f idle names calm) fun _ _ =>
      .set_chan ⟨rfl, rfl, rfl, rfl, rfl, rfl⟩ rfl rfl (fun _ n => by rw [calm.feedSlots]; rfl) fun _ => rfl
  coded {k c i entry width base w} carry job served := by
    refine .of_order (Works.keepsOrder_moves.coded carry job served) fun acc ordered => ?_
    refine (Works.Flows.codeEntry acc ordered job).trans ?_
    exact .set_chan ⟨rfl, rfl, rfl, rfl, rfl, rfl⟩ rfl rfl (fun _ _ => rfl) fun _ => rfl
  dropJob k := .of_order (Works.keepsOrder_moves.dropJob k) fun _ _ =>
    .of_same ⟨rfl, rfl, rfl, rfl, rfl, rfl⟩ rfl rfl rfl
  lose held := .of_order (Works.keepsOrder_moves.lose held) fun _ ordered => .lose ordered held
  cursorTo ready letter bounds := .of_order (Works.keepsOrder_moves.cursorTo ready letter bounds) fun _ _ =>
    .modLetter_fields rfl rfl
  openLetter {k c i} job channel closed found := by
    refine .of_order (Works.keepsOrder_moves.openLetter job channel closed found) fun acc _ => ?_
    obtain ⟨-, free⟩ := Works.findFree_spec found
    refine .of_sets ⟨rfl, rfl, rfl, rfl, rfl, rfl⟩ rfl rfl rfl rfl fun n => ?_
    rw [Letter.slots_free (acc.letter i) free]
    rfl
  joined channel closed found detached :=
    .of_order (Works.keepsOrder_moves.joined channel closed found detached) fun _ _ =>
      .of_sets ⟨rfl, rfl, rfl, rfl, rfl, rfl⟩ rfl rfl rfl rfl fun _ => rfl
  detachLetter channel ready holds := .of_order (Works.keepsOrder_moves.detachLetter channel ready holds) fun _ _ =>
    .of_sets ⟨rfl, rfl, rfl, rfl, rfl, rfl⟩ rfl rfl rfl rfl fun _ => rfl
  endLetter channel ready holds := .of_order (Works.keepsOrder_moves.endLetter channel ready holds) fun _ _ =>
    .of_sets ⟨rfl, rfl, rfl, rfl, rfl, rfl⟩ rfl rfl rfl rfl fun n => Letter.slots_ended _ n
  discardChannel channel ready holds := .of_order (Works.keepsOrder_moves.discardChannel channel ready holds) fun _ _ =>
    .trans (.modChan rfl) (.discardLetter _ _)
  discardLetter found loose := .of_order (Works.keepsOrder_moves.discardLetter found loose) fun _ _ => .discardLetter _ _
  truncated {k c i} ready letter := by
    refine .of_order (Works.keepsOrder_moves.truncated ready letter) fun acc _ => ?_
    rw [Works.giveBack_eq_given]
    refine .set_letter ⟨rfl, rfl, rfl, rfl, rfl, rfl⟩ rfl rfl (fun _ n => ?_)
      fun beyond => absurd (acc.letter_of_chan letter).1 beyond
    have slots := (k.letter i).slotCount_truncated n (k.letter i).cursor
    rw [Letter.slots_count, Letter.slots_count]
    show (k.freePool ++ slotsOf ((k.letter i).cutAway (k.letter i).cursor)).count n +
      (slotCount n ((k.letter i).sealedList.map SealedEntry.entry) + slotCount n ((k.letter i).truncated (k.letter i).cursor)) = _
    rw [List.count_append]
    change _ + (slotsOf _).count n = _ at slots
    omega
  marked {k c i kind} label letter room whole := by
    refine .of_order (Works.keepsOrder_moves.marked label letter room whole) fun _ _ => ?_
    refine .trans (.modLetter_fields rfl rfl) (.modChan ?_)
    unfold Channel.endGrowth
    split <;> rfl
  markedSplit {k c i kind edit} label letter room split_ enough := by
    refine .of_order (Works.keepsOrder_moves.markedSplit label letter room split_ enough) fun _ _ => ?_
    have letters := k.letters_markedSplit c i Channel.endGrowth (fun l => l.withMark kind label (k.capturePoint c i)) edit
    refine .of_sets (c := c) (ch := (k.chan c).endGrowth) ⟨rfl, rfl, rfl, rfl, rfl, rfl⟩ rfl letters rfl ?_ fun n => ?_
    · unfold Channel.endGrowth
      split <;> rfl
    · have slots := Letter.slotCount_splitRun split_ n
      rw [Letter.slots_count, Letter.slots_count, ← slots]
      rfl
  take _ found took := (Works.keepsSlots_takeMoves _).takeFrom (Works.lt_of_findJob found) took
  load {k c} channel closed := by
    refine .of_order (Works.keepsOrder_moves.load channel closed) fun acc _ => .modChan ?_
    rw [(acc.closed closed).2.2]
    rfl
  feed channel opened plays room := .of_order (Works.keepsOrder_moves.feed channel opened plays room) fun acc _ =>
    .feed _ (acc.chans ▸ channel)

end Sys2Proof.Machine

/-! PROOFS. The accounting of slots (R117, R118) across moves, UNLOAD and the scan. -/

namespace Sys2Proof.Machine

/-! ### The invariant of the slots -/

/-- What `Works.SlotsAddUp` says of slots and tables. -/
structure Works.Slots (k : Works) : Prop where
  once : k.placedSlots.Nodup
  inside : ∀ n ∈ k.placedSlots, n < Config.slotCount
  whole : k.startup = .done → k.placedSlots.length + k.unlisted = Config.slotCount
  still : k.startup ≠ .done → k.freePool = [] ∧ k.heldSlots = []
  rising : k.factory.Pairwise (· < ·)
  factory : ∀ n ∈ k.factory, n < Config.slotCount
  scan : k.ScanAddsUp

/-- What `Works.SlotsAddUp` says of frames, records and the job. -/
structure Works.Placed (k : Works) : Prop where
  frames : ∀ c, k.FramesPlaced (k.chan c)
  numbers : ∀ c, k.FeedNumbered (k.chan c)
  job : k.JobHasLetter

theorem Works.framesPlaced_of_idle {k : Works} {ch : Channel} (idle : ch.capture = []) : k.FramesPlaced ch :=
  ⟨fun some_frame => absurd idle some_frame, fun w hw => by rw [idle] at hw; exact nomatch hw⟩

theorem Works.feedNumbered_of_empty {k : Works} {ch : Channel} (empty : ch.feed = []) : k.FeedNumbered ch := by
  rw [Works.FeedNumbered, empty]
  exact ⟨List.nodup_nil, fun r hr => nomatch hr⟩

theorem Works.slotsAddUp_iff (k : Works) : k.SlotsAddUp ↔ k.Slots ∧ k.Placed := by
  have default : k.FramesPlaced Channel.initial ∧ k.FeedNumbered Channel.initial :=
    ⟨Works.framesPlaced_of_idle rfl, Works.feedNumbered_of_empty rfl⟩
  have channel : (∀ ch ∈ k.chans, k.FramesPlaced ch ∧ k.FeedNumbered ch) ↔
      ∀ c, k.FramesPlaced (k.chan c) ∧ k.FeedNumbered (k.chan c) := forall_getD default
  rw [Works.SlotsAddUp, channel]
  exact ⟨fun ⟨once, inside, whole, still, rising, factory, scan, each, job⟩ =>
      ⟨⟨once, inside, whole, still, rising, factory, scan⟩, ⟨fun c => (each c).1, fun c => (each c).2, job⟩⟩,
    fun ⟨⟨once, inside, whole, still, rising, factory, scan⟩, ⟨frames, numbers, job⟩⟩ =>
      ⟨once, inside, whole, still, rising, factory, scan, fun c => ⟨frames c, numbers c⟩, job⟩⟩

/-- Channels, letters and the job in order have their frames placed. -/
theorem Works.Ordered.placed {k : Works} (h : k.Ordered) : k.Placed where
  frames c := by
    cases letter : (k.chan c).letter with
    | none => exact Works.framesPlaced_of_idle (h.idle c letter)
    | some i =>
      have step := h.inStep c i letter
      refine ⟨step.busy, fun w hw => ?_⟩
      obtain ⟨before, after, split_, early⟩ := step.frames w hw
      exact ⟨i, before, after, letter, split_, early⟩
  numbers := h.feeds
  job c i entry width base serves := (h.job c i entry width base serves).1

/-! ### Moves -/

theorem Works.placedSlots_count (k : Works) (n : Nat) :
    k.placedSlots.count n = k.stock n + (k.defects.map Defect.slot).count n := by
  rw [Works.placedSlots, List.count_append, List.count_append, Works.heldSlots_count, Works.stock, ← Nat.add_assoc]

/-- Where nothing is free and nothing held, nothing stands in stock. -/
theorem Works.no_stock_iff (k : Works) : (k.freePool = [] ∧ k.heldSlots = []) ↔ ∀ n, k.stock n = 0 := by
  have split_ (n : Nat) : k.stock n = k.freePool.count n + k.heldSlots.count n := by
    rw [Works.heldSlots_count, Works.stock, Nat.add_assoc]
  constructor
  · rintro ⟨pool, held⟩ n
    rw [split_, pool, held]
    rfl
  · intro none_left
    constructor <;> refine List.eq_nil_iff_forall_not_mem.2 fun n hn => ?_ <;>
      have counted := List.count_pos_iff.2 hn <;> have empty := none_left n <;> rw [split_] at empty <;> omega

theorem Works.listed_eq {k k' : Works} (same : k'.defects.map Defect.slot = k.defects.map Defect.slot) (n : Nat) :
    k'.listed n = k.listed n := by
  have read (k : Works) : k.listed n = (k.defects.map Defect.slot).any fun m => decide (m = n) := by
    rw [Works.listed, List.any_map]
    rfl
  rw [read, read, same]

/-- A slot that leaves its holder to be retired stays accounted for. -/
theorem Works.Flows.slots {k k' : Works} (h : k.Flows k') (slots : k.Slots) : k'.Slots := by
  obtain ⟨listed, counted, stock, defects, unlisted⟩ := h.retires
  have perm : k.placedSlots.Perm (k'.placedSlots ++ counted) := List.perm_iff_count.2 fun n => by
    have flow := stock n
    rw [List.count_append, Works.placedSlots_count, Works.placedSlots_count, defects, List.count_append]
    omega
  have once := perm.nodup_iff.1 slots.once
  refine ⟨(List.nodup_append.1 once).1, fun n hn => slots.inside n (perm.mem_iff.2 (List.mem_append_left _ hn)),
    fun scan_done => ?_, fun starting => ?_, by rw [h.factory]; exact slots.rising,
    by rw [h.factory]; exact slots.factory, ?_⟩
  · have length := perm.length_eq
    have whole := slots.whole (h.startup ▸ scan_done)
    rw [List.length_append] at length
    omega
  · have nothing := (k.no_stock_iff).1 (slots.still (h.startup ▸ starting))
    exact (k'.no_stock_iff).2 fun n => by
      have flow := stock n
      rw [nothing n] at flow
      omega
  · by_cases scan_done : k.startup = .done
    · rw [Works.ScanAddsUp, h.startup, scan_done]
      exact ⟨fun early => early.elim (nomatch ·) (nomatch ·), (nomatch ·)⟩
    · have nothing := (k.no_stock_iff).1 (slots.still scan_done)
      have none_left (xs : List Nat) (below : ∀ n, xs.count n ≤ k.stock n) : xs = [] :=
        List.eq_nil_iff_forall_not_mem.2 fun n hn => by
          have some_left := List.count_pos_iff.2 hn
          have bound := below n
          rw [nothing n] at bound
          omega
      have none_listed : listed = [] := none_left listed fun n => by have flow := stock n; omega
      have none_counted : counted = [] := none_left counted fun n => by have flow := stock n; omega
      rw [none_listed, List.append_nil] at defects
      rw [none_counted] at unlisted
      obtain ⟨early, checking⟩ := slots.scan
      refine ⟨fun scan => unlisted.trans (early (h.startup ▸ scan)), fun scan => ?_⟩
      obtain ⟨nodup, low, count⟩ := checking (h.startup ▸ scan)
      rw [h.scanBad, h.checked]
      refine ⟨nodup, low, unlisted.trans ?_⟩
      rw [funext (Works.listed_eq defects)]
      exact count

/-! ### Every letter in order -/

theorem Works.letter_mem {k : Works} {i : Nat} (inside : i < k.letters.length) : k.letter i ∈ k.letters := by
  rw [Works.letter_eq_getElem inside]
  exact List.getElem_mem inside

theorem Works.letter_beyond {k : Works} {i : Nat} (beyond : ¬i < k.letters.length) : k.letter i = Letter.freeRecord := by
  simp [Works.letter, Nat.le_of_not_lt beyond]

theorem Works.chan_mem {k : Works} {c : Nat} (inside : c < k.chans.length) : k.chan c ∈ k.chans := by
  rw [Works.chan, List.getD_eq_getElem _ _ inside]
  exact List.getElem_mem inside

/-- Where an entry stands there is a letter. -/
theorem Works.lt_of_entry {k : Works} {i : Nat} {e : Entry} (there : e ∈ (k.letter i).edit) : i < k.letters.length := by
  by_contra beyond
  rw [Works.letter_beyond beyond] at there
  exact nomatch there

theorem Works.ordered_of {k : Works} (inOrder : k.LettersInOrder) (placed : k.Placed) : k.Ordered := by
  obtain ⟨letters, once, fresh, channels, -, own, job⟩ := inOrder
  have letter : ∀ i, (k.letter i).InOrder := (forall_getD Letter.freeRecord_inOrder).1 letters
  obtain ⟨each, apart⟩ := List.nodup_flatMap.1 once
  have ids (i : Nat) : ((k.letter i).edit.map Entry.id).Nodup := by
    by_cases inside : i < k.letters.length
    · exact each _ (Works.letter_mem inside)
    · rw [Works.letter_beyond inside]
      exact List.nodup_nil
  have channel : ∀ c, k.GrowsAtWritePoint (k.chan c) ∧ k.ReviewsInOrder (k.chan c) := by
    refine (forall_getD ⟨⟨fun _ => rfl, ?_⟩, fun reviewing => nomatch reviewing⟩).1 channels
    exact fun i before e after none_letter => nomatch none_letter
  have frames_own (c : Nat) : ((k.chan c).capture.map WaitFrame.entry).Nodup := by
    by_cases inside : c < k.chans.length
    · rw [Works.waitFrames, List.map_flatMap] at own
      exact (List.nodup_flatMap.1 own).1 _ (Works.chan_mem inside)
    · have default : k.chan c = Channel.initial := by simp [Works.chan, Nat.le_of_not_lt inside]
      rw [default]
      exact List.nodup_nil
  refine ⟨fun i => ?_, fun i e he => ?_, fun i j differ e he f hf same => ?_, fun c i names => ?_, fun c none_letter => ?_,
    fun c closed => ?_, placed.numbers, fun c i entry width base serves => ?_⟩
  · obtain ⟨covers, length, low, high, -, -, -, marks, -, -⟩ := letter i
    exact ⟨covers, length, low, high, ids i, fun m hm => (marks m hm).2⟩
  · exact fresh _ (List.mem_flatMap.2 ⟨_, Works.letter_mem (Works.lt_of_entry he), List.mem_map_of_mem he⟩)
  · have inside_i := Works.lt_of_entry he
    have inside_j := Works.lt_of_entry hf
    have disjoint {a b : Nat} (ha : a < k.letters.length) (hb : b < k.letters.length) (before : a < b) :
        List.Disjoint ((k.letter a).edit.map Entry.id) ((k.letter b).edit.map Entry.id) := by
      rw [Works.letter_eq_getElem ha, Works.letter_eq_getElem hb]
      exact List.pairwise_iff_getElem.1 apart a b ha hb before
    rcases Nat.lt_or_gt_of_ne differ with before | after
    · exact disjoint inside_i inside_j before (List.mem_map_of_mem he) (same ▸ List.mem_map_of_mem hf)
    · exact disjoint inside_j inside_i after (List.mem_map_of_mem hf) (same ▸ List.mem_map_of_mem he)
  · obtain ⟨⟨silent, grows⟩, reviews⟩ := channel c
    obtain ⟨busy, frames⟩ := placed.frames c
    refine ⟨silent, fun before e after => grows i before e after names, fun reviewing => ?_, busy, fun w hw => ?_, frames_own c⟩
    · obtain ⟨j, p, stop, letter, play, at_stop, low, inside, high⟩ := reviews reviewing
      obtain rfl : i = j := Option.some.inj (names.symm.trans letter)
      exact ⟨p, stop, play, at_stop, low, inside, high⟩
    · obtain ⟨j, before, after, letter, split_, early⟩ := frames w hw
      obtain rfl : i = j := Option.some.inj (names.symm.trans letter)
      exact ⟨before, after, split_, early⟩
  · refine List.eq_nil_iff_forall_not_mem.2 fun w hw => ?_
    obtain ⟨j, before, after, letter, -⟩ := (placed.frames c).2 w hw
    rw [none_letter] at letter
    exact nomatch letter
  · exact (channel c).1.1 (by rw [closed]; exact (nomatch ·))
  · exact ⟨placed.job c i entry width base serves, job c i entry width base serves⟩

/-! ### UNLOAD and RESTART KEEP (R146, R193) -/

theorem Works.Slots.unloadChan {k : Works} (slots : k.Slots) {c : Nat} (inside : c < k.chans.length) :
    (k.unloadChan c).Slots := by
  unfold Works.unloadChan
  rw [Works.giveBack_eq_given]
  refine Works.Flows.slots (k := k) ?_ slots
  refine .set_chan ⟨rfl, rfl, rfl, rfl, rfl, rfl⟩ rfl rfl (fun _ n => ?_) fun beyond => absurd inside beyond
  show (k.freePool ++ feedSlotsOf (k.chan c).feed).count n + ([] : List Nat).count n = _
  rw [List.count_append, List.count_nil, Nat.add_zero]

theorem Works.Placed.unloadChan {k : Works} (acc : k.Acc) (h : k.Ordered) {c : Nat} (inside : c < k.chans.length)
    (plays : (k.chan c).kind ≠ .dictation) : (k.unloadChan c).Placed := by
  have no_letter := acc.no_letter plays
  have no_frames := h.idle c no_letter
  have placed := h.placed
  unfold Works.unloadChan
  rw [Works.giveBack_eq_given]
  generalize at_c : (k.modChan c Channel.unload).given (k.chan c).feed.length (feedSlotsOf (k.chan c).feed) = k'
  have chans : k'.chans = k.chans.set c (k.chan c).unload := by rw [← at_c]; rfl
  have letters : k'.letters = k.letters := by rw [← at_c]; rfl
  have next : k'.nextEntry = k.nextEntry := by rw [← at_c]; rfl
  have job : k'.job = k.job := by rw [← at_c]; rfl
  have letter := Works.letter_of_letters_eq letters
  refine ⟨fun d => ?_, fun d => ?_, fun d i entry width base serves => ?_⟩
  · by_cases same : d = c
    · rw [same, Works.chan_of_set chans inside]
      exact Works.framesPlaced_of_idle no_frames
    · rw [Works.chan_of_set_ne chans same]
      obtain ⟨busy, frames⟩ := placed.frames d
      refine ⟨busy, fun w hw => ?_⟩
      obtain ⟨i, before, after, names, split_, early⟩ := frames w hw
      exact ⟨i, before, after, names, by rw [letter]; exact split_, by rw [letter]; exact early⟩
  · by_cases same : d = c
    · rw [same, Works.chan_of_set chans inside]
      exact Works.feedNumbered_of_empty rfl
    · rw [Works.chan_of_set_ne chans same]
      exact (placed.numbers d).of_ids (List.Sublist.refl _) next.ge
  · have names := placed.job d i entry width base (job ▸ serves)
    have other : d ≠ c := fun same => by
      rw [same, no_letter] at names
      exact nomatch names
    rw [Works.chan_of_set_ne chans other]
    exact names

theorem Works.Flows.restarted (k : Works) : k.Flows k.restarted := by
  refine .of_stock ⟨rfl, rfl, rfl, rfl, rfl, rfl⟩ fun n => ?_
  have pool : k.restarted.freePool.count n = k.freePool.count n + k.feedStock n := by
    have feeds : feedSlotsOf (k.chans.flatMap Channel.feed) = k.chans.flatMap fun ch => feedSlotsOf ch.feed := by
      rw [feedSlotsOf, List.filterMap_flatMap]
      rfl
    show (k.freePool ++ feedSlotsOf (k.chans.flatMap Channel.feed)).count n = _
    rw [List.count_append, feeds, count_flatMap, Works.feedStock]
  have letters : k.restarted.letterStock n = k.letterStock n := by
    show ((k.letters.map Letter.restarted).map fun l => l.slots.count n).sum = _
    rw [List.map_map]
    exact congrArg List.sum (List.map_congr_left fun l _ => congrArg (List.count n) l.slots_restarted)
  have feeds : k.restarted.feedStock n = 0 := by
    show ((k.chans.map Channel.restarted).map fun ch => (feedSlotsOf ch.feed).count n).sum = 0
    rw [List.map_map]
    exact List.sum_eq_zero fun m hm => by
      obtain ⟨ch, -, rfl⟩ := List.mem_map.1 hm
      rfl
  rw [Works.stock, Works.stock, pool, letters, feeds]
  omega

/-- Works whose channels have neither frames nor records, with the coder idle. -/
theorem Works.Placed.of_rest {k : Works} (rest : ∀ c, (k.chan c).capture = [] ∧ (k.chan c).feed = []) (idle : k.job = none) :
    k.Placed :=
  ⟨fun c => Works.framesPlaced_of_idle (rest c).1, fun c => Works.feedNumbered_of_empty (rest c).2,
    fun c i entry width base serves => by
      rw [idle] at serves
      exact nomatch serves⟩

theorem Works.restarted_rest (k : Works) (c : Nat) : (k.restarted.chan c).capture = [] ∧ (k.restarted.chan c).feed = [] := by
  have cases_ : k.restarted.chan c = (k.chan c).restarted ∨ k.restarted.chan c = Channel.initial :=
    getD_map_cases Channel.restarted k.chans c _ _
  rcases cases_ with same | same <;> rw [same] <;> exact ⟨rfl, rfl⟩

end Sys2Proof.Machine

/-! PROOFS. The accounting of slots across the scan (R122 to R127), and at every step. -/

namespace Sys2Proof.Machine

theorem mem_slotNumbers (n : Nat) : n ∈ slotNumbers ↔ n < Config.slotCount := List.mem_range

theorem slotNumbers_length : slotNumbers.length = Config.slotCount := List.length_range

theorem slotNumbers_nodup : slotNumbers.Nodup := List.nodup_range

theorem Works.listed_iff_mem (k : Works) (n : Nat) : k.listed n = true ↔ n ∈ k.defects.map Defect.slot := by
  rw [Works.listed_iff, List.mem_map]

/-- Before the end of the scan the slots placed are those listed. -/
theorem Works.Slots.placed_listed {k : Works} (slots : k.Slots) (starting : k.startup ≠ .done) :
    k.placedSlots = k.defects.map Defect.slot := by
  obtain ⟨pool, held⟩ := slots.still starting
  rw [Works.placedSlots, pool, held]
  rfl

/-- Works that hold nothing, with a table of slots each listed once. -/
theorem Works.Slots.of_listed {k k' : Works} (slots : k.Slots) (starting : k.startup ≠ .done) (starting' : k'.startup ≠ .done)
    (pool : k'.freePool = []) (chans : k'.chans = k.chans) (letters : k'.letters = k.letters)
    (factory : k'.factory = k.factory) (once : (k'.defects.map Defect.slot).Nodup)
    (inside : ∀ n ∈ k'.defects.map Defect.slot, n < Config.slotCount) (scan : k'.ScanAddsUp) : k'.Slots := by
  have held : k'.heldSlots = [] := by
    rw [Works.heldSlots, chans, letters]
    exact (slots.still starting).2
  have placed : k'.placedSlots = k'.defects.map Defect.slot := by
    rw [Works.placedSlots, pool, held]
    rfl
  exact ⟨placed ▸ once, placed ▸ inside, fun scan_done => absurd scan_done starting', fun _ => ⟨pool, held⟩,
    by rw [factory]; exact slots.rising, by rw [factory]; exact slots.factory, scan⟩

theorem factoryDefects_slots (ns : List Nat) : (factoryDefects ns).map Defect.slot = ns := by
  rw [factoryDefects, List.map_map]
  exact List.map_id ns

/-- LOADING_END lists the factory's defects (R123). -/
theorem Works.Slots.loaded {k : Works} (slots : k.Slots) (scan : k.startup = .loading) :
    ({ k with startup := .writing, defects := factoryDefects k.factory } : Works).Slots := by
  have counted := slots.scan.1 (.inl scan)
  refine slots.of_listed (by rw [scan]; exact (nomatch ·)) (nomatch ·) ?_ rfl rfl rfl ?_ ?_
    ⟨fun _ => counted, fun checking => nomatch checking⟩
  · exact (slots.still (by rw [scan]; exact (nomatch ·))).1
  · rw [factoryDefects_slots]
    exact slots.rising.imp fun before => Nat.ne_of_lt before
  · rw [factoryDefects_slots]
    exact slots.factory

/-- WRITING_END begins to check (R125, R126). -/
theorem Works.Slots.written {k : Works} (slots : k.Slots) (scan : k.startup = .writing) :
    ({ k with startup := .checking, checked := 0, scanBad := [] } : Works).Slots := by
  have starting : k.startup ≠ .done := by rw [scan]; exact (nomatch ·)
  have placed := slots.placed_listed starting
  refine slots.of_listed starting (nomatch ·) (slots.still starting).1 rfl rfl rfl ?_ ?_
    ⟨fun early => early.elim (nomatch ·) (nomatch ·), fun _ => ?_⟩
  · exact placed ▸ slots.once
  · exact placed ▸ slots.inside
  · exact ⟨List.nodup_nil, fun n hn => (nomatch hn), slots.scan.1 (.inr scan)⟩

/-! ### CHECKING (R126) -/

/-- Of slots that each stand once, those beyond the first few are as many as are left when these are left out. -/
theorem filter_not_mem_take {xs : List Nat} (once : xs.Nodup) (room : Nat) :
    xs.filter (fun n => !decide (n ∈ xs.take room)) = xs.drop room := by
  have apart : List.Disjoint (xs.take room) (xs.drop room) := by
    rw [← List.take_append_drop room xs, List.nodup_append'] at once
    exact once.2.2
  conv_lhs => rw [← List.take_append_drop room xs]
  rw [List.filter_append]
  have front : (xs.take room).filter (fun n => !decide (n ∈ xs.take room)) = [] :=
    List.filter_eq_nil_iff.2 fun n hn => by simp [hn]
  have back : (xs.drop room).filter (fun n => !decide (n ∈ xs.take room)) = xs.drop room :=
    List.filter_eq_self.2 fun n hn => by simpa using fun there => apart there hn
  rw [List.take_append_drop, front, back, List.nil_append]

/-- CHECKING lists or counts what mismatches. -/
theorem Works.Slots.checkTo {k : Works} (slots : k.Slots) (scan : k.startup = .checking) (st : Store) (errs : List CellError)
    (upTo : Nat) : (k.checkTo st errs upTo).Slots := by
  have starting : k.startup ≠ .done := by rw [scan]; exact (nomatch ·)
  have placed := slots.placed_listed starting
  have once := placed ▸ slots.once
  have inside := placed ▸ slots.inside
  obtain ⟨nodup, low, count⟩ := slots.scan.2 scan
  have bad_once : (k.mismatched st errs upTo).Nodup := (k.mismatched_pairwise st errs upTo).imp fun before => Nat.ne_of_lt before
  have bad (n : Nat) (hn : n ∈ k.mismatched st errs upTo) :
      k.checked ≤ n ∧ n < upTo ∧ n < Config.slotCount ∧ n ∉ k.defects.map Defect.slot := by
    obtain ⟨after, before, exists_, unlisted, -⟩ := (k.mem_mismatched st errs upTo n).1 hn
    refine ⟨after, before, exists_, fun there => ?_⟩
    obtain ⟨d, hd, same⟩ := List.mem_map.1 there
    exact unlisted d hd same
  have checked := k.checkTo_eq st errs upTo
  dsimp only at checked
  generalize k.mismatched st errs upTo = xs at *
  generalize 64 - k.defects.length = room at *
  generalize k.checkTo st errs upTo = k1 at *
  have startup : k1.startup = .checking := by rw [checked]; exact scan
  have table : k1.defects.map Defect.slot = k.defects.map Defect.slot ++ xs.take room := by
    rw [checked]
    show (k.defects ++ _).map Defect.slot = _
    rw [List.map_append, List.map_map]
    exact congrArg _ (List.map_id _)
  have unlisted : k1.unlisted = k.unlisted + (xs.length - room) := by rw [checked]
  have reached : k1.checked = max k.checked upTo := by rw [checked]
  have all_bad : k1.scanBad = k.scanBad ++ xs := by rw [checked]
  refine slots.of_listed starting (by rw [startup]; exact (nomatch ·)) (by rw [checked]; exact (slots.still starting).1)
    (by rw [checked]) (by rw [checked]) (by rw [checked]) ?_ (fun n hn => ?_)
    ⟨fun early => by rw [startup] at early; exact early.elim (nomatch ·) (nomatch ·), fun _ => ⟨?_, fun n hn => ?_, ?_⟩⟩
  · rw [table, List.nodup_append']
    exact ⟨once, bad_once.sublist (List.take_sublist _ _), fun n there new => (bad n (List.mem_of_mem_take new)).2.2.2 there⟩
  · rw [table] at hn
    exact (List.mem_append.1 hn).elim (inside n) fun new => (bad n (List.mem_of_mem_take new)).2.2.1
  · rw [all_bad, List.nodup_append']
    refine ⟨nodup, bad_once, fun n old new => ?_⟩
    have before := (low n old).1
    have after := (bad n new).1
    omega
  · rw [all_bad] at hn
    rw [reached]
    rcases List.mem_append.1 hn with old | new
    · exact ⟨lt_max_of_lt_left (low n old).1, (low n old).2⟩
    · exact ⟨lt_max_of_lt_right (bad n new).2.1, (bad n new).2.2.1⟩
  · have listed (n : Nat) : k1.listed n = true ↔ n ∈ k.defects.map Defect.slot ∨ n ∈ xs.take room := by
      rw [k1.listed_iff_mem, table, List.mem_append]
    have old_same : k.scanBad.filter (fun n => !k1.listed n) = k.scanBad.filter fun n => !k.listed n := by
      refine List.filter_congr fun n hn => congrArg _ ?_
      rw [Bool.eq_iff_iff, listed n, k.listed_iff_mem]
      refine or_iff_left fun new => ?_
      have before := (low n hn).1
      have after := (bad n (List.mem_of_mem_take new)).1
      omega
    have new_same : xs.filter (fun n => !k1.listed n) = xs.drop room := by
      rw [← filter_not_mem_take bad_once room]
      refine List.filter_congr fun n hn => congrArg _ ?_
      rw [Bool.eq_iff_iff, listed n, decide_eq_true_eq]
      exact or_iff_right (bad n hn).2.2.2
    rw [all_bad, List.filter_append, List.length_append, old_same, new_same, List.length_drop, unlisted, count]

/-! ### The end of the scan (R127) -/

/-- At the end of CHECKING every slot is good, listed, or counted. -/
theorem Works.Slots.partition {k : Works} (slots : k.Slots) (scan : k.startup = .checking) :
    (k.goodSlots ++ k.defects.map Defect.slot ++ k.scanBad.filter fun n => !k.listed n).Perm slotNumbers := by
  have starting : k.startup ≠ .done := by rw [scan]; exact (nomatch ·)
  have placed := slots.placed_listed starting
  have once := placed ▸ slots.once
  have inside := placed ▸ slots.inside
  obtain ⟨nodup, low, -⟩ := slots.scan.2 scan
  have good (n : Nat) : n ∈ k.goodSlots ↔ n < Config.slotCount ∧ n ∉ k.scanBad ∧ n ∉ k.defects.map Defect.slot := by
    rw [Works.goodSlots, List.mem_filter, mem_slotNumbers, Bool.and_eq_true, ← k.listed_iff_mem]
    simp
  have counted (n : Nat) : n ∈ (k.scanBad.filter fun n => !k.listed n) ↔ n ∈ k.scanBad ∧ n ∉ k.defects.map Defect.slot := by
    rw [List.mem_filter, ← k.listed_iff_mem]
    simp
  have good_once : k.goodSlots.Nodup := slotNumbers_nodup.filter _
  generalize k.goodSlots = good_slots at *
  have all_once : (good_slots ++ k.defects.map Defect.slot ++ k.scanBad.filter fun n => !k.listed n).Nodup := by
    rw [List.nodup_append', List.nodup_append']
    refine ⟨⟨good_once, once, fun n is_good is_listed => ((good n).1 is_good).2.2 is_listed⟩, nodup.filter _,
      fun n either is_counted => ?_⟩
    obtain ⟨is_bad, not_listed⟩ := (counted n).1 is_counted
    exact (List.mem_append.1 either).elim (fun is_good => ((good n).1 is_good).2.1 is_bad) not_listed
  refine (List.perm_ext_iff_of_nodup all_once slotNumbers_nodup).2 fun n => ?_
  rw [List.mem_append, List.mem_append, good n, counted n, mem_slotNumbers]
  constructor
  · rintro ((is_good | is_listed) | is_counted)
    · exact is_good.1
    · exact inside n is_listed
    · exact (low n is_counted.1).2
  · intro exists_
    by_cases is_listed : n ∈ k.defects.map Defect.slot
    · exact .inl (.inr is_listed)
    · by_cases is_bad : n ∈ k.scanBad
      · exact .inr ⟨is_bad, is_listed⟩
      · exact .inl (.inl ⟨exists_, is_bad, is_listed⟩)

/-- Works that take the good slots into the pool as the scan ends DONE. -/
theorem Works.Slots.of_partition {k k' : Works} (slots : k.Slots) (held : k.heldSlots = []) {good counted : List Nat}
    (partition : (good ++ k.defects.map Defect.slot ++ counted).Perm slotNumbers) (count : k.unlisted = counted.length)
    (scan_done : k'.startup = .done) (pool : k'.freePool = good) (chans : k'.chans = k.chans)
    (letters : k'.letters = k.letters) (factory : k'.factory = k.factory) (defects : k'.defects = k.defects)
    (unlisted : k'.unlisted = k.unlisted) : k'.Slots := by
  have held' : k'.heldSlots = [] := by
    rw [Works.heldSlots, chans, letters]
    exact held
  have placed : k'.placedSlots = good ++ k.defects.map Defect.slot := by
    rw [Works.placedSlots, pool, held', defects, List.append_nil]
  have once := (List.nodup_append.1 (partition.nodup_iff.2 slotNumbers_nodup)).1
  have length := partition.length_eq
  rw [slotNumbers_length, List.length_append, ← count] at length
  refine ⟨placed ▸ once, fun n hn => ?_, fun _ => ?_, fun starts => absurd scan_done starts,
    by rw [factory]; exact slots.rising, by rw [factory]; exact slots.factory, ?_⟩
  · rw [placed] at hn
    exact (mem_slotNumbers n).1 (partition.mem_iff.1 (List.mem_append_left _ hn))
  · rw [placed, unlisted]
    exact length
  · rw [Works.ScanAddsUp, scan_done]
    exact ⟨fun early => early.elim (nomatch ·) (nomatch ·), (nomatch ·)⟩

theorem Works.Slots.endScan {k : Works} (slots : k.Slots) (scan : k.startup = .checking) (cause : Cause) :
    (k.endScan cause).Slots := by
  have starting : k.startup ≠ .done := by rw [scan]; exact (nomatch ·)
  have placed := slots.placed_listed starting
  have partition := slots.partition scan
  obtain ⟨-, -, count⟩ := slots.scan.2 scan
  unfold Works.endScan
  generalize k.goodSlots = good at *
  split
  · refine Works.Flows.slots (.raiseWith _ _ _ _ _) ?_
    exact slots.of_partition (slots.still starting).2 partition count rfl rfl rfl rfl rfl rfl rfl
  · exact slots.of_listed starting (nomatch ·) rfl rfl rfl rfl (placed ▸ slots.once) (placed ▸ slots.inside)
      ⟨fun early => early.elim (nomatch ·) (nomatch ·), (nomatch ·)⟩

theorem Works.Slots.check {k : Works} (slots : k.Slots) (scan : k.startup = .checking) (st : Store) (errs : List CellError)
    (cause : Cause) (upTo : Nat) : (k.check st errs cause upTo).Slots := by
  have checked := slots.checkTo scan st errs upTo
  have startup : (k.checkTo st errs upTo).startup = .checking := by
    rw [Works.checkTo_eq]
    exact scan
  unfold Works.check
  dsimp only
  generalize k.checkTo st errs upTo = k1 at *
  split
  · exact checked.endScan startup cause
  · exact checked

/-! ### Every step -/

theorem Works.Change.slots {k k' : Works} (h : k.Change k') (acc : k.Acc) (ordered : k.Ordered) (slots : k.Slots) :
    k'.Slots ∧ k'.Placed := by
  have same {k1 : Works} (chans : k1.chans = k.chans) (letters : k1.letters = k.letters)
      (next : k1.nextEntry = k.nextEntry) (job : k1.job = k.job) : k1.Placed := (ordered.of_same chans letters next job).placed
  cases h with
  | moved moves =>
    obtain ⟨ordered', flows⟩ := (moves _ Works.keepsSlots_moves acc).2 ordered
    exact ⟨flows.slots slots, ordered'.placed⟩
  | unloaded c channel opened plays =>
    have inside : c < k.chans.length := acc.chans ▸ channel
    exact ⟨slots.unloadChan inside, .unloadChan acc ordered inside plays⟩
  | started => exact (Works.slotsAddUp_iff _).1 (Works.start_slotsAddUp _ slots.rising slots.factory)
  | loaded scan => exact ⟨slots.loaded scan, same rfl rfl rfl rfl⟩
  | written scan => exact ⟨slots.written scan, same rfl rfl rfl rfl⟩
  | checked st errs cause upTo scan =>
    obtain ⟨chans, letters, job, -, next⟩ := k.check_fields st errs cause upTo
    exact ⟨slots.check scan st errs cause upTo, same chans letters next job⟩
  | kept scan_done =>
    refine ⟨((Works.Flows.restarted k).trans (.raiseWith _ _ _ _ _)).slots slots, .of_rest (fun c => ?_) ?_⟩
    · rw [Works.raiseDevice, Works.chan_raiseWith]
      exact k.restarted_rest c
    · rw [Works.raiseDevice, Works.raiseWith_eq]
      rfl

/-- Settles O59: a slot leaves pool and holders only to be retired (`Works.Flows.slots`), and at its end the scan has every slot
good, listed or counted (`Works.Slots.partition`). -/
theorem slotsAddUpAtEveryStep : Obligations.SlotsAddUpAtEveryStep := fun _ _ accounted inOrder slots h => by
  obtain ⟨ledger, placed⟩ := (Works.slotsAddUp_iff _).1 slots
  exact (Works.slotsAddUp_iff _).2 ((step_works_change h).slots ((Works.accounted_iff _).1 accounted)
    (Works.ordered_of inOrder placed) ledger)

end Sys2Proof.Machine
